-- ==== Sys2Proof/Word.lean ====
section
/-! DEFINITION. The words and the plain containers of the model: bytes, the numbered things of the part as bounded
indices, and a table of a fixed number of like records. -/

namespace Sys2Proof

/-- One character of any of the three serial links. -/
abbrev Byte := BitVec 8

/-! The manual numbers everything from 1 (Introduction, section 7). Inside the model the thing numbered `n` has index
`n - 1`; only the wire forms of `Machine/Operands.lean` add and take the 1. -/

/-- Contact inputs C01 to C48. -/
abbrev InputId := Fin 48
/-- Ladder channels 1 to 8. -/
abbrev ChannelId := Fin 8
/-- Buttons 1 to 6 of a ladder channel. -/
abbrev LadderButton := Fin 6
/-- Station addresses 1 to 32. -/
abbrev StationId := Fin 32
/-- Buttons 1 to 8 of a station. -/
abbrev ButtonId := Fin 8
/-- Binding slots 1 to 512. -/
abbrev SlotId := Fin 512
/-- Scenes 1 to 96. -/
abbrev SceneId := Fin 96
/-- Circuits 1 to 128. -/
abbrev CircuitId := Fin 128
/-- Zones 1 to 16. -/
abbrev ZoneId := Fin 16
/-- Show flags F1 to F8. -/
abbrev FlagId := Fin 8
/-- Annunciators A1 to A8. -/
abbrev AnnunciatorId := Fin 8

/-- `n` like records, the one numbered `i + 1` at index `i`. -/
structure Table (α : Type) (n : Nat) where
  items : List α
  size : items.length = n
  deriving DecidableEq, Repr

/-- The record at an index. -/
def Table.get {α : Type} {n : Nat} (t : Table α n) (i : Fin n) : α :=
  t.items.get (i.cast t.size.symm)

/-- The table with one record replaced. -/
def Table.set {α : Type} {n : Nat} (t : Table α n) (i : Fin n) (a : α) : Table α n :=
  ⟨t.items.set i.val a, by simp [t.size]⟩

/-- `n` copies of one record. -/
def Table.replicate {α : Type} (n : Nat) (a : α) : Table α n :=
  ⟨List.replicate n a, by simp⟩

/-- Every record changed by one function. -/
def Table.map {α β : Type} {n : Nat} (f : α → β) (t : Table α n) : Table β n :=
  ⟨t.items.map f, by simp [t.size]⟩

/-- Two tables of the same things, joined record by record. -/
def Table.zipWith {α β γ : Type} {n : Nat} (f : α → β → γ) (t : Table α n) (u : Table β n) : Table γ n :=
  ⟨List.zipWith f t.items u.items, by simp [t.size, u.size]⟩

/-- The table whose record at each index is given by a function. -/
def Table.ofFn {α : Type} {n : Nat} (f : Fin n → α) : Table α n :=
  ⟨(List.finRange n).map f, by simp⟩

/-- The records with their indices, in ascending order. -/
def Table.indexed {α : Type} {n : Nat} (t : Table α n) : List (Fin n × α) :=
  (List.finRange n).zip t.items

end Sys2Proof
end

