-- ==== Sys2Proof/Syntax.lean ====
section
/-! DEFINITION. The commands of the HX-128: one constructor for each row of spec/opcode_table.json, with the data that
comes with the command. -/

namespace Sys2Proof

/-- What a contact sample reads, and a filtered level (R2). -/
inductive Contact where
  | opened
  | closed
  deriving DecidableEq, Repr

/-- Anything that can be pressed: 352 sources (Introduction, section 7). -/
inductive Source where
  | contact (input : InputId)
  | ladder (channel : ChannelId) (button : LadderButton)
  | station (address : StationId) (button : ButtonId)
  deriving DecidableEq, Repr

/-- A complete reply on the station bus, as its bytes after the start character 55h (R189). -/
structure BusReply where
  address : Byte
  kind : Byte
  data : List Byte
  check : Byte
  deriving DecidableEq, Repr

/-- The commands. A row named for a stimulus (a sample, a tick, a crossing, a character) carries the stimulus; a row named
for a case of one (a change accepted, a fade ending) carries the same stimulus and stands for it in that case
(notes/assumptions/1.md). A row named for a request of the control link carries the request's payload
(notes/assumptions/3.md). -/
inductive Instr where
  /-- Supply is applied (R195). -/
  | powerOn
  /-- The reset input is asserted and released (R195). -/
  | resetLine
  /-- The 1 ms sample of a contact input (R2, R6). -/
  | contactSample (input : InputId) (raw : Contact)
  /-- The 1 ms sample at which a pending change is accepted (R2, R3). -/
  | changeAccepted (input : InputId) (raw : Contact)
  /-- The 1 ms sample at which a settling run is complete (R6). -/
  | settlingComplete (input : InputId) (raw : Contact)
  /-- The 5 ms sample of a ladder channel, a count 0 to 1023 (R12, R13, R16). -/
  | ladderSample (channel : ChannelId) (reading : Nat)
  /-- The 5 ms sample at which the stable decode changes (R12). -/
  | ladderDecodeChange (channel : ChannelId) (reading : Nat)
  /-- The 5 ms sample at which the baseline is taken (R15). -/
  | ladderBaseline (channel : ChannelId) (reading : Nat)
  /-- The 5 ms sample at which the channel enters FAULT (R13). -/
  | ladderFaultEntry (channel : ChannelId) (reading : Nat)
  /-- The 5 ms sample at which the channel leaves FAULT (R16). -/
  | ladderRecovery (channel : ChannelId) (reading : Nat)
  /-- The last bit of the request has been sent (R25). -/
  | replyWindowOpen
  /-- A good STATE reply is complete (R28). -/
  | stateReply (reply : BusReply)
  /-- A good IDENT reply is complete (R27). -/
  | identReply (reply : BusReply)
  /-- A complete reply breaks a success condition (R25). -/
  | badReply (reply : BusReply)
  /-- The reply window closes without a complete reply (R25). -/
  | replyWindowClose
  /-- The failed turn, by a bad reply or by the window's close, that brings the miss count to 3 (R28, R29). -/
  | stationGoesMissing (reply : Option BusReply)
  /-- The 1.5 s of a FLASH3 override expire (R37). -/
  | flash3OverrideEnd (address : StationId) (button : ButtonId)
  /-- The hold timer of a source's tracker expires (R46). -/
  | holdTimerExpiry (source : Source)
  /-- The 20 ms tick of the level engine (R123). -/
  | tick
  /-- The tick at which a circuit's fade ends (R121). -/
  | fadeEnd (circuit : CircuitId)
  /-- A circuit's minimum dwell ends (R160). -/
  | dwellEnd (circuit : CircuitId)
  /-- A mains zero crossing, at a moment in microseconds (R167). -/
  | zeroCrossing (moment : Nat)
  /-- The crossing at which the tracker locks (R168). -/
  | mainsLock (moment : Nat)
  /-- 40 ms pass without a crossing (R168). -/
  | mainsSilenceExpiry
  /-- A zone's release timer expires (R147). -/
  | releaseTimerExpiry (zone : ZoneId)
  /-- A control-link character, with or without a stop-bit error (R172). -/
  | characterReceived (character : Byte) (stopBitError : Bool)
  /-- 20 ms pass without a character inside a frame (R172). -/
  | gapTimerExpiry
  /-- The silence timeout passes without a valid frame (R174). -/
  | silenceTimerExpiry
  /-- The transmitter finishes a frame (R180). -/
  | transmitFrameEnd
  /-- A damaged entry is taken (R178). -/
  | damagedEntry
  /-- A request whose KIND is no request kind is taken (R178). -/
  | unknownKind (kind : Byte) (payload : List Byte)
  | hello (payload : List Byte)
  | status (payload : List Byte)
  | cause (payload : List Byte)
  | save (payload : List Byte)
  /-- The save ends: its read-back verifies, or it fails (R192). -/
  | saveEnd (verified : Bool)
  | restart (payload : List Byte)
  | setFlags (payload : List Byte)
  | force (payload : List Byte)
  | release (payload : List Byte)
  | setAnnunciator (payload : List Byte)
  | recallRequest (payload : List Byte)
  | drop (payload : List Byte)
  | levelRequest (payload : List Byte)
  | clear (payload : List Byte)
  | dropRestart (payload : List Byte)
  | queryCircuit (payload : List Byte)
  | queryScene (payload : List Byte)
  | queryZone (payload : List Byte)
  | queryStation (payload : List Byte)
  | queryInputs (payload : List Byte)
  | putInput (payload : List Byte)
  | getInput (payload : List Byte)
  | putLadder (payload : List Byte)
  | getLadder (payload : List Byte)
  | putStation (payload : List Byte)
  | getStation (payload : List Byte)
  | putBinding (payload : List Byte)
  | getBinding (payload : List Byte)
  | putScene (payload : List Byte)
  | getScene (payload : List Byte)
  | putCircuit (payload : List Byte)
  | getCircuit (payload : List Byte)
  | putZone (payload : List Byte)
  | getZone (payload : List Byte)
  | putAnnunciator (payload : List Byte)
  | getAnnunciator (payload : List Byte)
  | putGeneral (payload : List Byte)
  | getGeneral (payload : List Byte)
  /-- The reset input is closed (R166, R194). -/
  | resetInputAsserted
  /-- Supply is lost (R194, R196). -/
  | lossOfSupply
  deriving DecidableEq, Repr

end Sys2Proof
end

