-- ==== Sys2Proof/Decode.lean ====
section
/-! DEFINITION. The commands that a word spells by the bits of spec/opcode_table.json. -/

namespace Sys2Proof

/-- No row of the table gives bits (every row's "fields" is empty and none has a "fixed"), so no word spells a command.
The requests' own encodings are the frames of section 10.9, read by the receive framer and by `Machine/Operands.lean`. -/
def decodeTableWord (_nbits _w : Nat) : Option Instr := none

end Sys2Proof
end

