-- ==== Sys2Proof/Config.lean ====
section
/-! DEFINITION. What an implementation fixes and the manual does not state. Each is a constant without a body: nothing
can evaluate it, so a claim about it holds whatever it is. -/

namespace Sys2Proof

/-- DESIGN CHOICE (notes/assumptions/6.md), safe: the hardware revision that HELLO returns (R183) is stated nowhere. -/
opaque Config.hardwareRevision : BitVec 8

/-- DESIGN CHOICE (notes/assumptions/6.md), safe: the firmware revision that HELLO returns (R183) is stated nowhere. -/
opaque Config.firmwareRevision : BitVec 16

/-- DESIGN CHOICE (notes/assumptions/7.md), safe: the byte sent in a 12-byte name field beyond the name's length
(R188: a write ignores those bytes; no rule says what a read sends there). The first argument is the draw, fresh at
each reply, the second the place in the field. -/
opaque Config.namePad : Nat → Nat → BitVec 8

/-- DESIGN CHOICE (notes/assumptions/28.md), safe: the commands that come between two bindings of one dispatch, in order.
R64, R85, R107 and R148 allow them there and do not say when they come. The argument is the draw, fresh at each gap. -/
opaque Config.comesBetween : Nat → List Instr

end Sys2Proof
end

