-- ==== Sys2Proof/Machine/Records.lean ====
section
/-! DEFINITION. The records the part holds: the settings records of the configuration, with their defaults, and the
running records of each block. -/

namespace Sys2Proof.Machine

/-! ## Settings (the image and the live configuration, R191) -/

/-- Function of a contact input (R1). -/
inductive InputFunction where
  | contact
  | ladder
  deriving DecidableEq, Repr

/-- Gesture kind (R1, R43). -/
inductive GestureKind where
  | momentary
  | maintained
  deriving DecidableEq, Repr

/-- Press sense (R1, R3). -/
inductive Sense where
  | closedIsPress
  | openIsPress
  deriving DecidableEq, Repr

/-- Noise width (R1, R2). -/
inductive NoiseWidth where
  | off
  | ms2
  | ms8
  | ms32
  deriving DecidableEq, Repr

/-- Settings of one contact input (R1). -/
structure InputSettings where
  function : InputFunction
  kind : GestureKind
  sense : Sense
  noise : NoiseWidth
  participate : Bool
  report : Bool
  egressCapable : Bool
  assertAtStart : Bool
  /-- Tenths of a second, 3 to 30. -/
  holdTime : Nat
  deriving DecidableEq, Repr

/-- The defaults of R1. -/
def InputSettings.defaults : InputSettings :=
  { function := .contact, kind := .momentary, sense := .closedIsPress, noise := .ms8, participate := true,
    report := true, egressCapable := false, assertAtStart := false, holdTime := 7 }

/-- A window of counts, both bounds inside (R10). -/
structure Window where
  low : Nat
  high : Nat
  deriving DecidableEq, Repr

/-- Settings of one ladder channel (R10). -/
structure LadderSettings where
  /-- 1 to 6. -/
  buttonCount : Nat
  windows : Table Window 7
  /-- Samples, 2 to 8. -/
  stability : Nat
  homeZone : ZoneId
  /-- Tenths of a second, 3 to 30. -/
  holdTime : Nat
  report : Bool
  deriving DecidableEq, Repr

/-- The defaults of R10, with the default window table. -/
def LadderSettings.defaults : LadderSettings :=
  { buttonCount := 6
    windows := ⟨[⟨940, 1023⟩, ⟨40, 120⟩, ⟨180, 260⟩, ⟨330, 410⟩, ⟨480, 560⟩, ⟨630, 710⟩, ⟨780, 860⟩], rfl⟩
    stability := 3, homeZone := 0, holdTime := 7, report := true }

/-- Indicator mode and argument of a station button (R22). -/
inductive Indicator where
  | off
  | on
  | scene (s : SceneId)
  | zone (z : ZoneId)
  | flag (f : FlagId)
  deriving DecidableEq, Repr

/-- Settings of one station address (R22). -/
structure StationSettings where
  enabled : Bool
  /-- Type code 1 to 15. -/
  expectedType : Nat
  homeZone : ZoneId
  /-- Tenths of a second, 3 to 30. -/
  holdTime : Nat
  report : Bool
  indicators : Table Indicator 8
  deriving DecidableEq, Repr

/-- The defaults of R22. -/
def StationSettings.defaults : StationSettings :=
  { enabled := false, expectedType := 1, homeZone := 0, holdTime := 7, report := true,
    indicators := Table.replicate 8 .off }

/-- The named moments of a gesture (R52, R56). -/
inductive Trigger where
  | press
  | hold
  | release
  | tap
  | holdRelease
  deriving DecidableEq, Repr

/-- The precedence class of a binding or a ramp (R56). -/
inductive BindingClass where
  /-- LOCAL. -/
  | loc
  | performance
  | egress
  deriving DecidableEq, Repr

/-- The precedence class of a claim (R95). -/
inductive ClaimClass where
  | base
  /-- LOCAL. -/
  | loc
  | performance
  | egress
  deriving DecidableEq, Repr

/-- What a binding does, with the fields its action uses (R56, R58); a field the action does not use is not held. A fade
is in tenths of a second, `none` where absent. -/
inductive Action where
  | sceneOn (scene : SceneId) (fade : Option Nat)
  | sceneOff (scene : SceneId) (fade : Option Nat)
  | sceneToggle (scene : SceneId) (fade : Option Nat)
  | level (circuit : CircuitId) (level : Nat) (fade : Option Nat)
  | levelOff (circuit : CircuitId) (fade : Option Nat)
  | raise (scene : SceneId)
  | lower (scene : SceneId)
  | zoneClear (zone : ZoneId) (fade : Option Nat)
  | flagSet (flag : FlagId)
  | flagClear (flag : FlagId)
  | flagToggle (flag : FlagId)
  | holdForce (zone : ZoneId)
  | holdRelease (zone : ZoneId)
  | reportOnly
  deriving DecidableEq, Repr

/-- One binding (R56). -/
structure Binding where
  source : Source
  trigger : Trigger
  action : Action
  cls : BindingClass
  zone : ZoneId
  enabled : Bool
  deriving DecidableEq, Repr

/-- One entry of a scene (R81). -/
structure SceneEntry where
  circuit : CircuitId
  /-- 0 to 1000. -/
  level : Nat
  deriving DecidableEq, Repr

/-- One scene record (R81); an empty name is an absent one (R82). -/
structure Scene where
  name : List Byte
  /-- Tenths of a second, 0 to 3000. -/
  onFade : Nat
  /-- Tenths of a second, 0 to 3000. -/
  offFade : Nat
  /-- In ascending circuit order, no circuit twice, at most 64. -/
  entries : List SceneEntry
  deriving DecidableEq, Repr

/-- The defaults of R81. -/
def Scene.defaults : Scene := { name := [], onFade := 20, offFade := 20, entries := [] }

/-- Output law of a circuit (R116). -/
inductive Law where
  | linear
  | square
  | switched
  deriving DecidableEq, Repr

/-- Settings of one circuit (R116). Levels are 0 to 1000. -/
structure CircuitSettings where
  law : Law
  cap : Nat
  preheat : Nat
  rest : Nat
  /-- Tenths of a second, 0 to 3000. -/
  defaultFade : Nat
  onThreshold : Nat
  offThreshold : Nat
  /-- Tenths of a second, 0 to 50. -/
  minimumDwell : Nat
  align : Bool
  deriving DecidableEq, Repr

/-- The defaults of R116. -/
def CircuitSettings.defaults : CircuitSettings :=
  { law := .linear, cap := 1000, preheat := 0, rest := 0, defaultFade := 20, onThreshold := 500, offThreshold := 450,
    minimumDwell := 5, align := true }

/-- Release mode of a zone (R140). -/
inductive ReleaseMode where
  | auto
  | manual
  deriving DecidableEq, Repr

/-- Settings of one zone (R140). A condition mask has one bit for each of the twelve conditions, placed as R188 places
them: bits 0 to 7 F1 to F8, bit 8 STATION_MISSING, bit 9 LADDER_FAULT, bit 10 LINK_SILENT, bit 11 MAINS_UNLOCKED. -/
structure ZoneSettings where
  mask : BitVec 12
  mode : ReleaseMode
  /-- Seconds: 0, 5, 10, 30, 60 or 120. -/
  delay : Nat
  /-- Level units per second, 10 to 1000. -/
  raiseRate : Nat
  name : List Byte
  deriving DecidableEq, Repr

/-- The defaults of R140. -/
def ZoneSettings.defaults : ZoneSettings := { mask := 0, mode := .auto, delay := 0, raiseRate := 200, name := [] }

/-- Function of an annunciator, with its argument (R152). -/
inductive AnnunciatorFunction where
  | plain
  | zoneHeld (z : ZoneId)
  | flag (f : FlagId)
  | egressActive
  | mainsLocked
  | stationFault
  | ladderFault
  deriving DecidableEq, Repr

/-- Nominal mains frequency (R167, R185). -/
inductive Nominal where
  | hz50
  | hz60
  deriving DecidableEq, Repr

/-- The seven report categories, in the order of the report mask's bits (R181, R188). -/
inductive Category where
  | events
  | zones
  | stations
  | ladders
  | mains
  | claims
  | store
  deriving DecidableEq, Repr

/-- The general settings (R185). -/
structure GeneralSettings where
  nominal : Nominal
  /-- Seconds, 0 to 255. -/
  silenceTimeout : Nat
  reportMask : BitVec 7
  flagStart : BitVec 8
  enableStart : BitVec 8
  deriving DecidableEq, Repr

/-- The defaults of R185. -/
def GeneralSettings.defaults : GeneralSettings :=
  { nominal := .hz50, silenceTimeout := 0, reportMask := BitVec.allOnes 7, flagStart := 0, enableStart := 0 }

/-- Every settings record of the part: what the image holds one copy of (R191). -/
structure Settings where
  inputs : Table InputSettings 48
  ladders : Table LadderSettings 8
  stations : Table StationSettings 32
  bindings : Table (Option Binding) 512
  scenes : Table Scene 96
  circuits : Table CircuitSettings 128
  zones : Table ZoneSettings 16
  annunciators : Table AnnunciatorFunction 8
  general : GeneralSettings
  deriving DecidableEq, Repr

/-- The defaults of every record, gathered in R195. -/
def Settings.defaults : Settings :=
  { inputs := Table.replicate 48 InputSettings.defaults
    ladders := Table.replicate 8 LadderSettings.defaults
    stations := Table.replicate 32 StationSettings.defaults
    bindings := Table.replicate 512 none
    scenes := Table.replicate 96 Scene.defaults
    circuits := Table.replicate 128 CircuitSettings.defaults
    zones := Table.replicate 16 ZoneSettings.defaults
    annunciators := Table.replicate 8 .plain
    general := GeneralSettings.defaults }

/-! ## Running records -/

/-- Conditioning of a contact input (R2, R6). `settling` holds the settling run, if a sample has opened one, and
assert-at-start as the start read it (R6): a write during the settling touches no running state (R9), and R7 and R21 leave
it off. -/
inductive Conditioning where
  | stopped
  | settling (run : Option (Contact × Nat)) (asserts : Bool)
  | running
  deriving DecidableEq, Repr

/-- Running state of a contact input (R2): the pending change is of the level opposed to the filtered one, so only its
count is held. -/
structure InputState where
  filtered : Contact
  pending : Option Nat
  conditioning : Conditioning
  deriving DecidableEq, Repr

/-- Channel state (section 1.6). -/
inductive ChannelState where
  | inactive
  | normal
  | fault
  deriving DecidableEq, Repr

/-- Running state of a ladder channel (section 1.6, R12 to R16). A decode is a window number, 0 for none. -/
structure LadderState where
  state : ChannelState
  decode : Nat
  candidate : Option Nat
  candidateRun : Nat
  indeterminateRun : Nat
  baselinePending : Bool
  recoveryRun : Nat
  deriving DecidableEq, Repr

/-- A channel that is not sampled (R19, R21). -/
def LadderState.off : LadderState :=
  { state := .inactive, decode := 0, candidate := none, candidateRun := 0, indeterminateRun := 0,
    baselinePending := false, recoveryRun := 0 }

/-- A channel just started, its baseline pending (R15). -/
def LadderState.started : LadderState := { LadderState.off with state := .normal, baselinePending := true }

/-- Station state (section 2.3). -/
inductive StationStateName where
  | offline
  | identifying
  | active
  | mismatch
  | missing
  deriving DecidableEq, Repr

/-- Running state of a station address (section 2.3, R26, R34, R37). -/
structure StationState where
  state : StationStateName
  /-- The last good key map: bit `b - 1` is set while button `b` is held (R189). -/
  keyMap : BitVec 8
  baselinePending : Bool
  /-- 0 to 3. -/
  misses : Nat
  reportedType : Byte
  reportedButtons : Nat
  badReplies : Nat
  noReplies : Nat
  /-- The FLASH3 override of each button: the remaining milliseconds while it runs (R37). -/
  overrides : Table (Option Nat) 8
  /-- A write in the station's own turn has moved its home zone: until the transition at the turn's end its MISSING or MISMATCH no longer counts toward STATION_MISSING (R23, R40; notes/assumptions/9.md). -/
  uncounted : Bool
  deriving DecidableEq, Repr

/-- A station address as a start leaves it, in the state given (R41). -/
def StationState.started (name : StationStateName) : StationState :=
  { state := name, keyMap := 0, baselinePending := false, misses := 0, reportedType := 0, reportedButtons := 0,
    badReplies := 0, noReplies := 0, overrides := Table.replicate 8 none, uncounted := false }

/-- Indicator patterns, in the order of their codes (section 2.6). -/
inductive Pattern where
  | off
  | on
  | slow
  | fast
  | flash3
  deriving DecidableEq, Repr

/-- The request of a station turn (R25). -/
inductive BusRequest where
  | poll (patterns : Table Pattern 8)
  | ident
  deriving DecidableEq, Repr

/-- The station turn in progress (R25). -/
structure Turn where
  address : StationId
  request : BusRequest
  /-- The remaining milliseconds of the reply window, once it is open. -/
  window : Option Nat
  /-- A write of this station arrived during the turn, so R23's transition takes place at its end. -/
  deferred : Bool
  deriving DecidableEq, Repr

/-- Gesture tracker state (R43). -/
inductive TrackerState where
  | idle
  | down
  | held
  | latent
  deriving DecidableEq, Repr

/-- One gesture tracker (R43). The hold timer holds its remaining milliseconds while it runs; the suppression set holds
zones in ascending order. -/
structure Tracker where
  state : TrackerState
  kind : Option GestureKind
  timer : Option Nat
  holdTime : Option Nat
  suppression : List ZoneId
  deriving DecidableEq, Repr

/-- The record of an IDLE tracker (R43). -/
def Tracker.idle : Tracker := { state := .idle, kind := none, timer := none, holdTime := none, suppression := [] }

/-- The record of a LATENT tracker (R43, R48). -/
def Tracker.latent : Tracker := { Tracker.idle with state := .latent }

/-- Who a claim speaks for (R95): owner kind and number together. -/
inductive Owner where
  | scene (s : SceneId)
  | source (s : Source)
  | remote
  | restart
  deriving DecidableEq, Repr

/-- The key of a claim (R95). -/
structure Key where
  owner : Owner
  cls : ClaimClass
  deriving DecidableEq, Repr

/-- One claim (R95); zone 0 is `none`. -/
structure Claim where
  owner : Owner
  cls : ClaimClass
  /-- 0 to 1000. -/
  level : Nat
  zone : Option ZoneId
  deriving DecidableEq, Repr

/-- A fade record (R119). -/
structure Fade where
  start : Nat
  target : Nat
  steps : Nat
  count : Nat
  deriving DecidableEq, Repr

/-- A change of relay state being held back, with the pending request (R157); ON is `true`. -/
inductive Waiting where
  | none
  | afterDwell (request : Bool)
  | atCrossing (request : Bool)
  deriving DecidableEq, Repr

/-- The relay sequencer's record of one circuit (R157). `elapsed` is the milliseconds since the last change, counted in
ticks up to the longest dwell; the remaining dwell is the minimum dwell less that (notes/assumptions/15.md). -/
structure Relay where
  state : Bool
  dwellRunning : Bool
  elapsed : Nat
  waiting : Waiting
  deriving DecidableEq, Repr

/-- The longest minimum dwell, 50 tenths of a second, in milliseconds (R116). -/
def Relay.longest : Nat := 5000

/-- The relay record at power-on and reset line (R164). -/
def Relay.started : Relay := { state := false, dwellRunning := false, elapsed := Relay.longest, waiting := .none }

/-- Running state of one circuit: level engine (R119), claim list (R97), relay record (R157). -/
structure Circuit where
  /-- The level L, 0 to 1000. -/
  level : Nat
  fade : Option Fade
  claims : List Claim
  /-- The relay request; ON is `true`. -/
  request : Bool
  /-- The output value O, 0 to 255. -/
  output : Nat
  relay : Relay
  deriving DecidableEq, Repr

/-- A circuit before its rest level acts (R115, R135, R164). -/
def Circuit.started : Circuit :=
  { level := 0, fade := none, claims := [], request := false, output := 0, relay := Relay.started }

/-- Ramp direction (R125). -/
inductive Direction where
  | up
  | down
  deriving DecidableEq, Repr

/-- One ramp of the ramp table (R125). -/
structure Ramp where
  binding : SlotId
  scene : SceneId
  cls : BindingClass
  zone : ZoneId
  direction : Direction
  /-- Level units per second. -/
  rate : Nat
  /-- 0 to 49. -/
  accumulator : Nat
  deriving DecidableEq, Repr

/-- Mains tracker state (R167). -/
inductive MainsState where
  | absent
  | acquiring
  | locked
  deriving DecidableEq, Repr

/-- The mains tracker (R167). -/
structure Mains where
  state : MainsState
  /-- The moment of the last crossing, in microseconds. -/
  previous : Option Nat
  /-- Microseconds; 0 before any. -/
  lastInterval : Nat
  lockCount : Nat
  /-- The remaining milliseconds of the silence timer while it runs. -/
  silence : Option Nat
  deriving DecidableEq, Repr

/-- The tracker at power-on and reset line (R171). -/
def Mains.started : Mains := { state := .absent, previous := none, lastInterval := 0, lockCount := 0, silence := none }

/-- Zone state (R143). -/
inductive ZoneStateName where
  | free
  | held
  | releasing
  | awaiting
  deriving DecidableEq, Repr

/-- Running state of one zone (R143, R144, R147). -/
structure Zone where
  state : ZoneStateName
  force : Bool
  /-- The remaining milliseconds of the release timer while it runs. -/
  timer : Option Nat
  deriving DecidableEq, Repr

/-- The receive framer (R172), with the remaining milliseconds of its gap timer. In BODY it holds LEN and the bytes
collected so far, in order. -/
inductive Framer where
  | idle
  | awaitLen (gap : Nat)
  | body (len : Nat) (bytes : List Byte) (gap : Nat)
  deriving DecidableEq, Repr

/-- An entry of the pending request queue (R173, R176). -/
inductive Entry where
  | request (kind : Byte) (payload : List Byte)
  | damaged
  deriving DecidableEq, Repr

/-- KIND and PAYLOAD of a frame of the control link (R188). -/
structure Frame where
  kind : Byte
  payload : List Byte
  deriving DecidableEq, Repr

/-- Outcome of a dispatch (R67). -/
inductive DispatchOutcome where
  | none
  | run
  | suppressed
  | mixed
  deriving DecidableEq, Repr

/-- The reports (R181). -/
inductive Report where
  | event (source : Source) (trigger : Trigger) (outcome : DispatchOutcome)
  | zone (zone : ZoneId) (state : ZoneStateName) (force : Bool) (active : BitVec 12)
  | station (address : StationId) (state : StationStateName) (reportedType : Byte)
  | ladder (channel : ChannelId) (state : ChannelState)
  | mains (state : MainsState) (lastInterval : Nat)
  | evicted (circuit : CircuitId) (key : Key)
  | refused (circuit : CircuitId) (key : Key)
  | rampRefused (binding : SlotId) (scene : SceneId)
  | saved (verified : Bool)
  deriving DecidableEq, Repr

/-- What the transmitter is sending (R180). -/
inductive Outgoing where
  | reply (frame : Frame)
  | report (report : Report)
  deriving DecidableEq, Repr

/-- The control link's silence timer (R174): LINK_SILENT is active exactly while it is expired. -/
inductive SilenceTimer where
  | stopped
  | running (remaining : Nat)
  | expired
  deriving DecidableEq, Repr

/-- The reset-cause record (R196). -/
structure ResetCauses where
  powerOn : Bool
  resetLine : Bool
  restart : Bool
  storeEmpty : Bool
  deriving DecidableEq, Repr

/-- No flag set: what CAUSE leaves (R196). -/
def ResetCauses.clear : ResetCauses := { powerOn := false, resetLine := false, restart := false, storeEmpty := false }

/-- Whether the part runs, is held in reset (R166), or has no supply (R194). -/
inductive Power where
  | running
  | heldInReset
  | unpowered
  deriving DecidableEq, Repr

end Sys2Proof.Machine
end

