-- ==== Sys2Proof/Machine/State.lean ====
section
/-! DEFINITION. The state of the HX-128, as plain data: everything the manual's blocks hold, with the queue of commands
that are waiting, and the state right after reset. -/

namespace Sys2Proof.Machine

/-- The reasons for which the machine stops with a fault. There is none: the manual describes no event that stops the
part, and every command has its effect in every state. -/
inductive Fault where
  deriving DecidableEq, Repr

/-- The reasons for which a command is refused. -/
inductive Refusal where
  /-- Raised by `exec` alone, for a command that has no meaning yet, by the mnemonic of its row. Safe: the machine stops
  where the part goes on. No arm of `exec` raises it in the finished model. -/
  | notModelled (mnemonic : String)
  deriving DecidableEq, Repr

structure State where
  /-- Running, held in reset or without supply (R166, R194). -/
  power : Power
  /-- The live configuration (chapter 11). -/
  settings : Settings
  /-- The stored image: `none` while it is invalid (R191). -/
  image : Option Settings
  /-- The store is SAVING (R192). -/
  saving : Bool
  /-- The reset-cause record (R196). -/
  causes : ResetCauses
  inputs : Table InputState 48
  ladders : Table LadderState 8
  stations : Table StationState 32
  /-- The station turn in progress; `none` while the bus is quiet (R24). -/
  turn : Option Turn
  contactTrackers : Table Tracker 48
  ladderTrackers : Table (Table Tracker 6) 8
  stationTrackers : Table (Table Tracker 8) 32
  circuits : Table Circuit 128
  /-- The ramp table, in ascending binding slot (R125). -/
  ramps : List Ramp
  /-- The frame count of the next refresh frame (R165, R166). -/
  frameCount : Byte
  /-- The 131 characters of the refresh frame last started; `none` while the line is idle from a reset (R165, R166). -/
  refresh : Option (List Byte)
  mains : Mains
  zones : Table Zone 16
  /-- The show flags: bit `n - 1` is Fn (R137). -/
  flags : BitVec 8
  /-- The annunciator enables: bit `n - 1` is An (R153). -/
  enables : BitVec 8
  framer : Framer
  /-- The pending request queue, head first (R176). -/
  requests : List Entry
  replySlot : Option Frame
  /-- A request has been taken and its reply is not in the reply slot yet: no other is taken meanwhile (R176). -/
  carrying : Bool
  /-- While a request is being carried out: how many of the waiting reports stand ahead of the first that it may have raised, and
  so may start before its reply (R179, R180). `none` where every waiting report may start. -/
  ahead : Option Nat
  /-- The frame the transmitter is sending; `none` while it is IDLE (R180). -/
  sending : Option Outgoing
  /-- The report queue, head first (R181). -/
  reports : List Report
  /-- The lost count, 0 to 255 (R181). -/
  lost : Nat
  silence : SilenceTimer
  /-- The model's own: how many free values have been drawn (notes/assumptions/7.md, notes/assumptions/28.md). -/
  draws : Nat
  /-- The model's own: the commands that are waiting, first in, first out. -/
  pending : List Instr
  deriving DecidableEq, Repr

/-- The machine right after reset: a part whose image is invalid, as it leaves the factory (R191), at its first power-on
(R195, R196), before any further command. DEDUCED (notes/assumptions/5.md). Each value is the one its chapter gives:
R6, R19, R41, R54, R80, R94, R115, R135, R155, R164, R166, R171, R187, R194. -/
def State.reset : State :=
  { power := .running
    settings := Settings.defaults
    image := none
    saving := false
    causes := { powerOn := true, resetLine := false, restart := false, storeEmpty := true }
    inputs := Table.replicate 48 { filtered := .opened, pending := none, conditioning := .settling none false }
    ladders := Table.replicate 8 LadderState.off
    stations := Table.replicate 32 (StationState.started .offline)
    turn := none
    contactTrackers := Table.replicate 48 Tracker.idle
    ladderTrackers := Table.replicate 8 (Table.replicate 6 Tracker.idle)
    stationTrackers := Table.replicate 32 (Table.replicate 8 Tracker.idle)
    circuits := Table.replicate 128 Circuit.started
    ramps := []
    frameCount := 0
    refresh := none
    mains := Mains.started
    zones := Table.replicate 16 { state := .free, force := false, timer := none }
    flags := 0
    enables := 0
    framer := .idle
    requests := []
    replySlot := none
    carrying := false
    ahead := none
    sending := none
    reports := []
    lost := 0
    silence := .stopped
    draws := 0
    pending := [] }

end Sys2Proof.Machine
end

