-- ==== Sys2Proof/Machine/Ops.lean ====
section
/-! DEFINITION. The named operations over the state that several blocks share: one record of a table replaced, a report
raised, ramps ended, the transmitter's choice. -/

namespace Sys2Proof.Machine

/-! ## One record replaced -/

def State.setInput (i : InputId) (v : InputState) (s : State) : State := { s with inputs := s.inputs.set i v }
def State.setLadder (ch : ChannelId) (v : LadderState) (s : State) : State := { s with ladders := s.ladders.set ch v }
def State.setStation (a : StationId) (v : StationState) (s : State) : State :=
  { s with stations := s.stations.set a v }
def State.setCircuit (c : CircuitId) (v : Circuit) (s : State) : State := { s with circuits := s.circuits.set c v }
def State.setZone (z : ZoneId) (v : Zone) (s : State) : State := { s with zones := s.zones.set z v }
def State.setSettings (v : Settings) (s : State) : State := { s with settings := v }

/-- The gesture tracker of a source (R43). -/
def State.tracker (s : State) : Source → Tracker
  | .contact i => s.contactTrackers.get i
  | .ladder ch b => (s.ladderTrackers.get ch).get b
  | .station a b => (s.stationTrackers.get a).get b

def State.setTracker (src : Source) (v : Tracker) (s : State) : State :=
  match src with
  | .contact i => { s with contactTrackers := s.contactTrackers.set i v }
  | .ladder ch b => { s with ladderTrackers := s.ladderTrackers.set ch ((s.ladderTrackers.get ch).set b v) }
  | .station a b => { s with stationTrackers := s.stationTrackers.set a ((s.stationTrackers.get a).set b v) }

/-! ## Classes -/

/-- Rank of a class, by the order EGRESS, PERFORMANCE, LOCAL, BASE from highest (Introduction, section 7). -/
def ClaimClass.rank : ClaimClass → Nat
  | .base => 0
  | .loc => 1
  | .performance => 2
  | .egress => 3

/-- The class of the claims a binding places (R56). -/
def BindingClass.claim : BindingClass → ClaimClass
  | .loc => .loc
  | .performance => .performance
  | .egress => .egress

/-! ## Reports (R181) -/

/-- The category of a report (R181). -/
def Report.category : Report → Category
  | .event .. => .events
  | .zone .. => .zones
  | .station .. => .stations
  | .ladder .. => .ladders
  | .mains .. => .mains
  | .evicted .. | .refused .. | .rampRefused .. => .claims
  | .saved .. => .store

/-- The bit of a category in the report mask (R188). -/
def Category.bit : Category → Nat
  | .events => 0
  | .zones => 1
  | .stations => 2
  | .ladders => 3
  | .mains => 4
  | .claims => 5
  | .store => 6

/-- A report is raised (R181): nothing where its category is off; appended where fewer than 32 wait; otherwise dropped,
with the lost count raised up to 255. -/
def raise (r : Report) (s : State) : State :=
  if s.settings.general.reportMask.getLsbD r.category.bit then
    if s.reports.length < 32 then { s with reports := s.reports ++ [r] }
    else { s with lost := min 255 (s.lost + 1) }
  else s

/-! ## Ramps -/

/-- Every ramp of a kind leaves the ramp table; the claims it moved stay as they are (R129). -/
def endRamps (which : Ramp → Bool) (s : State) : State := { s with ramps := s.ramps.filter fun r => !which r }

/-! ## The transmitter (R180) -/

/-- An IDLE transmitter starts the reply in the reply slot, or else the report at the head of the queue (R180), but no report of
a request before its reply (R179). It is called at the end of every step (DEDUCED from R179 and R180, notes/assumptions/4.md). -/
def serve (s : State) : State :=
  match s.sending with
  | some _ => s
  | none =>
    match s.replySlot with
    | some f => { s with sending := some (.reply f), replySlot := none }
    | none =>
      match s.reports with
      | r :: rest =>
        if s.ahead = some 0 then s
        else { s with sending := some (.report r), reports := rest, ahead := s.ahead.map (· - 1) }
      | [] => s

/-! ## The outcome of a command -/

/-- A command of the running part. While the part is held in reset or has no supply, nothing is sampled, received or
timed, and the command finds no part to act on (R166, R194, R195; notes/assumptions/16.md). -/
def whenRunning (f : State → State) (s : State) : Host.Outcome State Fault Refusal :=
  if s.power = .running then .next (f s) else .next s

/-- An event that acts, and after which the transmitter chooses (R180), where its cause is present; an event that cannot
occur in this state changes nothing (notes/assumptions/1.md). -/
def eventIf (possible : State → Bool) (f : State → State) (s : State) : Host.Outcome State Fault Refusal :=
  whenRunning (fun s => if possible s then serve (f s) else s) s

/-- An event that is possible in every running state. -/
def event (f : State → State) (s : State) : Host.Outcome State Fault Refusal := whenRunning (fun s => serve (f s)) s

end Sys2Proof.Machine
end

