-- ==== Sys2Proof/Machine/Flags.lean ====
section
/-! DEFINITION. The signals that follow from the state and are not held in it: the zone conditions, egress-active, the
annunciator signals, scene status, indicator patterns. -/

namespace Sys2Proof.Machine

/-! ## Conditions (R142) -/

/-- MISSING or MISMATCH: the states that make STATION_MISSING active (R40). -/
def StationStateName.lost : StationStateName → Bool
  | .missing | .mismatch => true
  | .offline | .identifying | .active => false

/-- STATION_MISSING of a zone (R40). A station that a write in its own turn has taken to another home zone counts toward
none until it fails again. -/
def stationMissing (s : State) (z : ZoneId) : Bool :=
  (List.finRange 32).any fun a =>
    let c := s.settings.stations.get a
    c.enabled && decide (c.homeZone = z) && (s.stations.get a).state.lost && !(s.stations.get a).uncounted

/-- LADDER_FAULT of a zone (R18). -/
def ladderFault (s : State) (z : ZoneId) : Bool :=
  (List.finRange 8).any fun ch =>
    decide ((s.settings.ladders.get ch).homeZone = z) && decide ((s.ladders.get ch).state = .fault)

/-- LINK_SILENT (R174). -/
def linkSilent (s : State) : Bool := decide (s.silence = .expired)

/-- MAINS_UNLOCKED (R170). -/
def mainsUnlocked (s : State) : Bool := decide (s.mains.state ≠ .locked)

/-- One condition's bit (R188). -/
def conditionBit (n : Nat) (b : Bool) : BitVec 12 := if b then BitVec.twoPow 12 n else 0

/-- The conditions that are active for a zone, whatever its mask (R142), placed as R188 places them. -/
def activeConditions (s : State) (z : ZoneId) : BitVec 12 :=
  s.flags.setWidth 12 ||| conditionBit 8 (stationMissing s z) ||| conditionBit 9 (ladderFault s z)
    ||| conditionBit 10 (linkSilent s) ||| conditionBit 11 (mainsUnlocked s)

/-- The zone's active masked conditions (R142). -/
def activeMasked (s : State) (z : ZoneId) : BitVec 12 := (s.settings.zones.get z).mask &&& activeConditions s z

/-- Whether a zone is called (R142). -/
def called (s : State) (z : ZoneId) : Bool := (s.zones.get z).force || decide (activeMasked s z ≠ 0)

/-- The zones that are not FREE, in ascending order: what a press captures (R51). -/
def heldZones (s : State) : List ZoneId := (List.finRange 16).filter fun z => decide ((s.zones.get z).state ≠ .free)

/-! ## Claims -/

/-- The circuit's target: the effective claim's level, or the rest level of an empty list (R97). -/
def Circuit.target (cs : CircuitSettings) (c : Circuit) : Nat :=
  match c.claims with
  | [] => cs.rest
  | cl :: _ => cl.level

/-- The egress-active signal (R113): some circuit's effective claim has class EGRESS. -/
def egressActive (s : State) : Bool :=
  s.circuits.items.any fun c => match c.claims with | cl :: _ => decide (cl.cls = .egress) | [] => false

/-! ## Scene status (R91) -/

/-- The four values of a scene's status, in the order of their codes (R91, R188). -/
inductive SceneStatus where
  | inactive
  | partially
  | fading
  | full
  deriving DecidableEq, Repr

/-- Whether a circuit's effective claim is owned by a scene (R91). -/
def Circuit.shows (sc : SceneId) (c : Circuit) : Bool :=
  match c.claims with
  | cl :: _ => decide (cl.owner = .scene sc)
  | [] => false

/-- The status of a scene, the first test of R91 that holds. -/
def sceneStatus (s : State) (sc : SceneId) : SceneStatus :=
  let entries := (s.settings.scenes.get sc).entries
  if !(s.circuits.items.any fun c => c.claims.any fun cl => decide (cl.owner = .scene sc)) then .inactive
  else if entries.any fun e => !(s.circuits.get e.circuit).shows sc then .partially
  else if entries.any fun e => (s.circuits.get e.circuit).fade.isSome then .fading
  else .full

/-! ## Annunciators (R154) -/

/-- The signal of an annunciator's function (R154). -/
def annunciatorSignal (s : State) : AnnunciatorFunction → Bool
  | .plain => true
  | .zoneHeld z => decide ((s.zones.get z).state ≠ .free)
  | .flag f => s.flags.getLsbD f.val
  | .egressActive => egressActive s
  | .mainsLocked => decide (s.mains.state = .locked)
  | .stationFault => s.stations.items.any fun st => st.state.lost
  | .ladderFault => s.ladders.items.any fun l => decide (l.state = .fault)

/-- Whether an annunciator's output conducts (R154): every output is open while the part is held in reset or has no
supply. -/
def annunciatorOutput (s : State) (a : AnnunciatorId) : Bool :=
  decide (s.power = .running) && s.enables.getLsbD a.val && annunciatorSignal s (s.settings.annunciators.get a)

/-! ## Indicator patterns (R36 to R38) -/

/-- The pattern of an indicator mode, from the state of what it names (R36). -/
def modePattern (s : State) : Indicator → Pattern
  | .off => .off
  | .on => .on
  | .scene sc =>
    match sceneStatus s sc with
    | .full => .on
    | .fading => .fast
    | .partially => .slow
    | .inactive => .off
  | .zone z =>
    match (s.zones.get z).state with
    | .free => .off
    | .held => .on
    | .releasing => .slow
    | .awaiting => .fast
  | .flag f => if s.flags.getLsbD f.val then .on else .off

/-- The pattern a POLL carries for a button: OFF above the reported button count (R38), else FLASH3 while its override
runs (R37), else the pattern of its mode (R36). -/
def buttonPattern (s : State) (a : StationId) (b : ButtonId) : Pattern :=
  let st := s.stations.get a
  if st.reportedButtons ≤ b.val then .off
  else if (st.overrides.get b).isSome then .flash3
  else modePattern s ((s.settings.stations.get a).indicators.get b)

end Sys2Proof.Machine
end

