-- ==== Sys2Proof/Machine/Zones.lean ====
section
/-! DEFINITION. The zone unit (chapter 8): re-evaluation, force and release, show flags, and the release timer's
expiry. -/

namespace Sys2Proof.Machine

/-- The state a zone that is just no longer called leaves HELD for, by its release mode and delay (R143). -/
def leaveHeld (zs : ZoneSettings) : ZoneStateName :=
  match zs.mode with
  | .manual => .awaiting
  | .auto => if zs.delay = 0 then .free else .releasing

/-- The release timer of a state just entered: the full delay in RELEASING, stopped in every other state (R147). -/
def releaseTimer (zs : ZoneSettings) : ZoneStateName → Option Nat
  | .releasing => some (zs.delay * 1000)
  | .free | .held | .awaiting => none

/-- A change of a zone's state, taken whole (R143): the new state and its timer, the zone's LOCAL ramps ended on an entry
to HELD (R149), then the ZONE report (R150). -/
def enterZone (z : ZoneId) (name : ZoneStateName) (s : State) : State :=
  let s := s.setZone z { s.zones.get z with state := name, timer := releaseTimer (s.settings.zones.get z) name }
  let s := if name = .held then endRamps (fun r => decide (r.cls = .loc) && decide (r.zone = z)) s else s
  raise (.zone z name (s.zones.get z).force (activeMasked s z)) s

/-- Re-evaluation of one zone (R143): a change that leaves a called zone HELD, or an uncalled zone out of HELD, moves
nothing. -/
def reevaluate (z : ZoneId) (s : State) : State :=
  match (s.zones.get z).state, called s z with
  | .held, false => enterZone z (leaveHeld (s.settings.zones.get z)) s
  | .held, true => s
  | .free, true | .releasing, true | .awaiting, true => enterZone z .held s
  | .free, false | .releasing, false | .awaiting, false => s

/-- Re-evaluation of every zone concerned, in ascending zone number (R143). -/
def reevaluateWhere (concerned : ZoneId → Bool) (s : State) : State :=
  (List.finRange 16).foldl (fun s z => if concerned z then reevaluate z s else s) s

/-- The zones whose mask includes a condition, by its bit. -/
def masks (s : State) (bit : Nat) (z : ZoneId) : Bool := (s.settings.zones.get z).mask.getLsbD bit

/-- The show flags take new values together, and every zone whose mask includes a flag that changed is re-evaluated once
(R137). -/
def changeFlags (v : BitVec 8) (s : State) : State :=
  let changed : BitVec 12 := (s.flags ^^^ v).setWidth 12
  reevaluateWhere (fun z => decide ((s.settings.zones.get z).mask &&& changed ≠ 0)) { s with flags := v }

/-- One flag's value in the eight. -/
def withFlag (flags : BitVec 8) (f : FlagId) (v : Bool) : BitVec 8 :=
  if v then flags ||| BitVec.twoPow 8 f.val else flags &&& ~~~(BitVec.twoPow 8 f.val)

/-- Force is set (R144). -/
def forceZone (z : ZoneId) (s : State) : State :=
  if (s.zones.get z).force then s
  else reevaluate z (s.setZone z { s.zones.get z with force := true })

/-- The state a release request leads to, once force is cleared, from the zone's state (R145). -/
def releaseTo (zs : ZoneSettings) (stillCalled : Bool) : ZoneStateName → ZoneStateName
  | .held =>
    if stillCalled then .held
    else match zs.mode with
      | .manual => .free
      | .auto => if zs.delay = 0 then .free else .releasing
  | .awaiting => .free
  | .releasing => .releasing
  | .free => .free

/-- A release request (R145): force is cleared, then the zone moves by its state. -/
def releaseZone (z : ZoneId) (s : State) : State :=
  let s := s.setZone z { s.zones.get z with force := false }
  let next := releaseTo (s.settings.zones.get z) (called s z) (s.zones.get z).state
  if next = (s.zones.get z).state then s else enterZone z next s

/-- The release timer of a RELEASING zone expires: the zone goes to FREE (R147). -/
def execReleaseTimerExpiry (z : ZoneId) (s : State) : Host.Outcome State Fault Refusal :=
  eventIf (fun s => decide ((s.zones.get z).state = .releasing) && (s.zones.get z).timer.isSome) (enterZone z .free) s

end Sys2Proof.Machine
end

