-- ==== Sys2Proof/Machine/Claims.lean ====
section
/-! DEFINITION. The claim arbiter (chapter 6) and the start of fades (R105, R120), with the ramp table's requests
(R125). -/

namespace Sys2Proof.Machine

/-! ## Claim lists -/

/-- The key of a claim (R95). -/
def Claim.key (c : Claim) : Key := { owner := c.owner, cls := c.cls }

/-- A claim put at the front of its class group (R97): behind every claim of a higher class, ahead of every other. -/
def insertClaim (n : Claim) : List Claim → List Claim
  | [] => [n]
  | c :: cs => if n.cls.rank < c.cls.rank then c :: insertClaim n cs else n :: c :: cs

/-- Whether a list holds a claim with a key. -/
def holdsKey (k : Key) (l : List Claim) : Bool := l.any fun c => decide (c.key = k)

/-- The list without the claims of a key. -/
def dropKey (k : Key) (l : List Claim) : List Claim := l.filter fun c => decide (c.key ≠ k)

/-- What becomes of a placement (R98 to R100). -/
inductive Placement where
  /-- Replaced or inserted: no report. -/
  | taken (list : List Claim)
  | evicted (old : Claim) (list : List Claim)
  | refused
  deriving DecidableEq, Repr

/-- A placement, by the first of R98, R99 and R100 that applies. -/
def placeClaim (n : Claim) (l : List Claim) : Placement :=
  if holdsKey n.key l then .taken (insertClaim n (dropKey n.key l))
  else if l.length < 4 then .taken (insertClaim n l)
  else
    match l.getLast? with
    | none => .taken (insertClaim n l)
    | some last =>
      if n.cls.rank < last.cls.rank then .refused else .evicted last (insertClaim n l.dropLast)

/-! ## Target and fade (R105, R120) -/

/-- The aim: the target of the running fade, or the level (R105). -/
def Circuit.aim (c : Circuit) : Nat :=
  match c.fade with
  | some f => f.target
  | none => c.level

/-- A new target is handed to the level engine with a fade time in tenths of a second (R105, R120, R122). -/
def Circuit.headFor (target fade : Nat) (c : Circuit) : Circuit :=
  if target = c.aim then c
  else if target = c.level then { c with fade := none }
  else if fade = 0 then { c with level := target, fade := none }
  else { c with fade := some { start := c.level, target := target, steps := 5 * fade, count := 0 } }

/-- The circuit's list has changed: its target is worked out and handed over (R105). -/
def Circuit.retarget (cs : CircuitSettings) (fade : Nat) (c : Circuit) : Circuit := c.headFor (c.target cs) fade

/-- A withdrawal of a key (R102): nothing on a circuit that holds no such claim. -/
def Circuit.withdraw (cs : CircuitSettings) (k : Key) (fade : Nat) (c : Circuit) : Circuit :=
  if holdsKey k c.claims then { c with claims := dropKey k c.claims }.retarget cs fade else c

/-- Whether ZONE_CLEAR of a zone withdraws a claim (R75). -/
def Claim.localOf (z : ZoneId) (c : Claim) : Bool := decide (c.cls = .loc) && decide (c.zone = some z)

/-- ZONE_CLEAR on one circuit (R103): all of the zone's LOCAL claims in one step, the target worked out once. -/
def Circuit.clearZone (cs : CircuitSettings) (z : ZoneId) (fade : Nat) (c : Circuit) : Circuit :=
  if c.claims.any (Claim.localOf z) then
    { c with claims := c.claims.filter fun cl => !cl.localOf z }.retarget cs fade
  else c

/-! ## The arbiter on the whole state -/

/-- Whether a placement would be refused (R100). -/
def placementRefused (c : CircuitId) (n : Claim) (s : State) : Bool :=
  decide (placeClaim n (s.circuits.get c).claims = .refused)

/-- A placement on a circuit with a fade time (R98 to R101, R105). -/
def place (c : CircuitId) (n : Claim) (fade : Nat) (s : State) : State :=
  let circ := s.circuits.get c
  let cs := s.settings.circuits.get c
  match placeClaim n circ.claims with
  | .taken l => s.setCircuit c ({ circ with claims := l }.retarget cs fade)
  | .evicted old l => raise (.evicted c old.key) (s.setCircuit c ({ circ with claims := l }.retarget cs fade))
  | .refused => raise (.refused c n.key) s

/-- A withdrawal of a key from one circuit (R102). -/
def withdraw (c : CircuitId) (k : Key) (fade : Nat) (s : State) : State :=
  s.setCircuit c ((s.circuits.get c).withdraw (s.settings.circuits.get c) k fade)

/-- A change of every circuit by its settings; no report depends on the order (R102, R103). -/
def changeCircuits (f : CircuitSettings → Circuit → Circuit) (s : State) : State :=
  { s with circuits := Table.zipWith f s.settings.circuits s.circuits }

/-- A withdrawal of a key from every circuit (R102). -/
def withdrawEverywhere (k : Key) (fade : Nat) (s : State) : State := changeCircuits (fun cs c => c.withdraw cs k fade) s

/-- ZONE_CLEAR of a zone, with the fade of the binding or else each circuit's default fade (R75, R103). -/
def clearZone (z : ZoneId) (fade : Option Nat) (s : State) : State :=
  changeCircuits (fun cs c => c.clearZone cs z (fade.getD cs.defaultFade)) s

/-- A scene's claims placed on its entry circuits, in the order of its entry list (R69, R88). -/
def placeScene (sc : SceneId) (cls : ClaimClass) (zone : Option ZoneId) (fade : Option Nat) (s : State) : State :=
  let scene := s.settings.scenes.get sc
  scene.entries.foldl
    (fun s e => place e.circuit { owner := .scene sc, cls := cls, level := e.level, zone := zone }
      (fade.getD scene.onFade) s) s

/-- A scene's claims of a class withdrawn from every circuit (R70, R88). -/
def withdrawScene (sc : SceneId) (cls : ClaimClass) (fade : Option Nat) (s : State) : State :=
  withdrawEverywhere { owner := .scene sc, cls := cls } (fade.getD (s.settings.scenes.get sc).offFade) s

/-- Whether any circuit holds a claim of a scene and class (R71). -/
def sceneHeld (sc : SceneId) (cls : ClaimClass) (s : State) : Bool :=
  s.circuits.items.any fun c => holdsKey { owner := .scene sc, cls := cls } c.claims

/-- RAISE places a claim at the circuit's level on each entry circuit that lacks one (R74). -/
def placeMissing (sc : SceneId) (cls : ClaimClass) (zone : ZoneId) (s : State) : State :=
  (s.settings.scenes.get sc).entries.foldl
    (fun s e =>
      if holdsKey { owner := .scene sc, cls := cls } (s.circuits.get e.circuit).claims then s
      else place e.circuit
        { owner := .scene sc, cls := cls, level := (s.circuits.get e.circuit).level, zone := some zone } 0 s) s

/-! ## The ramp table (R125) -/

/-- A ramp put in its place by binding slot. -/
def insertRamp (r : Ramp) : List Ramp → List Ramp
  | [] => [r]
  | q :: rest => if r.binding ≤ q.binding then r :: q :: rest else q :: insertRamp r rest

/-- A ramp is asked for (R125): it replaces the ramp of its binding, is added, or is refused. -/
def requestRamp (r : Ramp) (s : State) : State :=
  if s.ramps.any fun q => decide (q.binding = r.binding) then
    { s with ramps := s.ramps.map fun q => if q.binding = r.binding then r else q }
  else if s.ramps.length < 16 then { s with ramps := insertRamp r s.ramps }
  else raise (.rampRefused r.binding r.scene) s

end Sys2Proof.Machine
end

