-- ==== Sys2Proof/Machine/Operands.lean ====
section
/-! DEFINITION. The wire forms of the control link (section 10.9): codes, fields, and the layout of every settings
record, read from a write's payload and written into a read's reply. -/

namespace Sys2Proof.Machine

/-! ## Bytes and fields -/

/-- The check that brings a sum of bytes to a multiple of 256 (R188, R190). -/
def checkByte (l : List Byte) : Byte := -(l.foldl (· + ·) 0)

/-- One byte of a payload as a number; 0 beyond its end. -/
def byteAt (p : List Byte) (i : Nat) : Nat := (p.getD i 0).toNat

/-- A two-byte field, least significant byte first (R188). -/
def wordAt (p : List Byte) (i : Nat) : Nat := byteAt p i + 256 * byteAt p (i + 1)

/-- A number as one byte. -/
def byteOf (n : Nat) : Byte := BitVec.ofNat 8 n

/-- A number as two bytes, least significant first (R188). -/
def wordOf (n : Nat) : List Byte := [byteOf n, byteOf (n / 256)]

/-- An on/off value as one byte (R188). -/
def boolByte (b : Bool) : Byte := if b then 1 else 0

/-- An on/off byte (R184, R188). -/
def boolOf : Nat → Option Bool
  | 0 => some false
  | 1 => some true
  | _ => none

/-- The thing numbered `k` of `n`, if there is one. -/
def idOf (n k : Nat) : Option (Fin n) := if h : 1 ≤ k ∧ k ≤ n then some ⟨k - 1, by omega⟩ else none

/-- A thing's number. -/
def numberOf {n : Nat} (i : Fin n) : Nat := i.val + 1

/-- A number within bounds. -/
def within (low high n : Nat) : Option Nat := if low ≤ n ∧ n ≤ high then some n else none

/-! ## Codes (R188) -/

def InputFunction.code : InputFunction → Nat
  | .contact => 0
  | .ladder => 1

def InputFunction.ofCode : Nat → Option InputFunction
  | 0 => some .contact
  | 1 => some .ladder
  | _ => none

def GestureKind.code : GestureKind → Nat
  | .momentary => 0
  | .maintained => 1

def GestureKind.ofCode : Nat → Option GestureKind
  | 0 => some .momentary
  | 1 => some .maintained
  | _ => none

def Sense.code : Sense → Nat
  | .closedIsPress => 0
  | .openIsPress => 1

def Sense.ofCode : Nat → Option Sense
  | 0 => some .closedIsPress
  | 1 => some .openIsPress
  | _ => none

def NoiseWidth.code : NoiseWidth → Nat
  | .off => 0
  | .ms2 => 1
  | .ms8 => 2
  | .ms32 => 3

def NoiseWidth.ofCode : Nat → Option NoiseWidth
  | 0 => some .off
  | 1 => some .ms2
  | 2 => some .ms8
  | 3 => some .ms32
  | _ => none

def ClaimClass.code (c : ClaimClass) : Nat := c.rank

def ClaimClass.ofCode : Nat → Option ClaimClass
  | 0 => some .base
  | 1 => some .loc
  | 2 => some .performance
  | 3 => some .egress
  | _ => none

def BindingClass.code (c : BindingClass) : Nat := c.claim.code

/-- Class BASE is not a binding class (R56). -/
def BindingClass.ofCode : Nat → Option BindingClass
  | 1 => some .loc
  | 2 => some .performance
  | 3 => some .egress
  | _ => none

def Trigger.code : Trigger → Nat
  | .press => 1
  | .hold => 2
  | .release => 3
  | .tap => 4
  | .holdRelease => 5

def Trigger.ofCode : Nat → Option Trigger
  | 1 => some .press
  | 2 => some .hold
  | 3 => some .release
  | 4 => some .tap
  | 5 => some .holdRelease
  | _ => none

def DispatchOutcome.code : DispatchOutcome → Nat
  | .none => 0
  | .run => 1
  | .suppressed => 2
  | .mixed => 3

def ZoneStateName.code : ZoneStateName → Nat
  | .free => 0
  | .held => 1
  | .releasing => 2
  | .awaiting => 3

def StationStateName.code : StationStateName → Nat
  | .offline => 0
  | .identifying => 1
  | .active => 2
  | .mismatch => 3
  | .missing => 4

def ChannelState.code : ChannelState → Nat
  | .inactive => 0
  | .normal => 1
  | .fault => 2

def MainsState.code : MainsState → Nat
  | .absent => 0
  | .acquiring => 1
  | .locked => 2

def SceneStatus.code : SceneStatus → Nat
  | .inactive => 0
  | .partially => 1
  | .fading => 2
  | .full => 3

def Law.code : Law → Nat
  | .linear => 0
  | .square => 1
  | .switched => 2

def Law.ofCode : Nat → Option Law
  | 0 => some .linear
  | 1 => some .square
  | 2 => some .switched
  | _ => none

def ReleaseMode.code : ReleaseMode → Nat
  | .auto => 0
  | .manual => 1

def ReleaseMode.ofCode : Nat → Option ReleaseMode
  | 0 => some .auto
  | 1 => some .manual
  | _ => none

def Nominal.code : Nominal → Nat
  | .hz50 => 0
  | .hz60 => 1

def Nominal.ofCode : Nat → Option Nominal
  | 0 => some .hz50
  | 1 => some .hz60
  | _ => none

/-! ## Sources and owners -/

/-- A source field: kind, unit, button (R188). -/
def sourceBytes : Source → List Byte
  | .contact i => [1, byteOf (numberOf i), 0]
  | .ladder ch b => [2, byteOf (numberOf ch), byteOf (numberOf b)]
  | .station a b => [3, byteOf (numberOf a), byteOf (numberOf b)]

/-- A source read from its field, checked against its kind (R57). -/
def sourceOf (kind unit button : Nat) : Option Source :=
  match kind with
  | 1 => if button = 0 then (idOf 48 unit).map .contact else none
  | 2 => (idOf 8 unit).bind fun ch => (idOf 6 button).map (.ladder ch)
  | 3 => (idOf 32 unit).bind fun a => (idOf 8 button).map (.station a)
  | _ => none

/-- Owner kind and owner number of a claim (R188). -/
def ownerBytes : Owner → List Byte
  | .scene s => [1, byteOf (numberOf s), 0, 0]
  | .source s => 2 :: sourceBytes s
  | .remote => [3, 0, 0, 0]
  | .restart => [4, 0, 0, 0]

/-- A claim as QUERY_CIRCUIT carries it, 8 bytes (R188). -/
def claimBytes (c : Claim) : List Byte :=
  ownerBytes c.owner ++ [byteOf c.cls.code] ++ wordOf c.level
    ++ [match c.zone with | some z => byteOf (numberOf z) | none => 0]

/-! ## Contact input record (R1): input, function, kind, sense, noise width, participate, report, egress-capable,
assert-at-start, hold time -/

def inputBytes (i : InputId) (c : InputSettings) : List Byte :=
  [byteOf (numberOf i), byteOf c.function.code, byteOf c.kind.code, byteOf c.sense.code, byteOf c.noise.code,
   boolByte c.participate, boolByte c.report, boolByte c.egressCapable, boolByte c.assertAtStart,
   byteOf c.holdTime]

/-- LADDER is a function of inputs 41 to 48 alone (R1). -/
def functionAllowed (i : InputId) (f : InputFunction) : Bool :=
  match f with
  | .contact => true
  | .ladder => decide (40 ≤ i.val)

def inputOf (p : List Byte) : Option (InputId × InputSettings) := do
  let i ← idOf 48 (byteAt p 0)
  let function ← InputFunction.ofCode (byteAt p 1)
  let kind ← GestureKind.ofCode (byteAt p 2)
  let sense ← Sense.ofCode (byteAt p 3)
  let noise ← NoiseWidth.ofCode (byteAt p 4)
  let participate ← boolOf (byteAt p 5)
  let report ← boolOf (byteAt p 6)
  let egressCapable ← boolOf (byteAt p 7)
  let assertAtStart ← boolOf (byteAt p 8)
  let holdTime ← within 3 30 (byteAt p 9)
  if functionAllowed i function then
    some (i, { function, kind, sense, noise, participate, report, egressCapable, assertAtStart, holdTime })
  else none

/-! ## Ladder channel record (R10): channel, button count, windows 0 to 6, stability count, home zone, hold time,
report -/

def windowBytes (w : Window) : List Byte := wordOf w.low ++ wordOf w.high

def ladderBytes (ch : ChannelId) (c : LadderSettings) : List Byte :=
  [byteOf (numberOf ch), byteOf c.buttonCount] ++ c.windows.items.flatMap windowBytes
    ++ [byteOf c.stability, byteOf (numberOf c.homeZone), byteOf c.holdTime, boolByte c.report]

/-- The window table of a payload (R10). -/
def windowsAt (p : List Byte) : Table Window 7 :=
  Table.ofFn fun w => { low := wordAt p (2 + 4 * w.val), high := wordAt p (4 + 4 * w.val) }

/-- Every bound lies in 0 to 1023 (R10), and no window is reversed (R11). -/
def windowsInRange (t : Table Window 7) : Bool :=
  t.items.all fun w => decide (w.low ≤ 1023) && decide (w.high ≤ 1023) && decide (w.low ≤ w.high)

/-- Whether some count lies inside both of two windows (R11). -/
def Window.overlaps (v w : Window) : Bool := decide (v.low ≤ w.high) && decide (w.low ≤ v.high)

/-- No two defined windows, 0 to the button count, overlap (R11). -/
def windowsApart (buttonCount : Nat) (t : Table Window 7) : Bool :=
  let defined := t.indexed.take (buttonCount + 1)
  defined.all fun v => defined.all fun w => decide (v.1 = w.1) || !v.2.overlaps w.2

def ladderOf (p : List Byte) : Option (ChannelId × LadderSettings) := do
  let ch ← idOf 8 (byteAt p 0)
  let buttonCount ← within 1 6 (byteAt p 1)
  let stability ← within 2 8 (byteAt p 30)
  let homeZone ← idOf 16 (byteAt p 31)
  let holdTime ← within 3 30 (byteAt p 32)
  let report ← boolOf (byteAt p 33)
  let windows := windowsAt p
  if windowsInRange windows && windowsApart buttonCount windows then
    some (ch, { buttonCount, windows, stability, homeZone, holdTime, report })
  else none

/-! ## Station record (R22): address, enabled, expected type, home zone, hold time, report, buttons 1 to 8 (mode,
argument) -/

def indicatorField : Indicator → List Byte
  | .off => [0, 0]
  | .on => [1, 0]
  | .scene s => [2, byteOf (numberOf s)]
  | .zone z => [3, byteOf (numberOf z)]
  | .flag f => [4, byteOf (numberOf f)]

/-- For modes OFF and ON the argument is not checked (R22). -/
def indicatorOf (mode argument : Nat) : Option Indicator :=
  match mode with
  | 0 => some .off
  | 1 => some .on
  | 2 => (idOf 96 argument).map .scene
  | 3 => (idOf 16 argument).map .zone
  | 4 => (idOf 8 argument).map .flag
  | _ => none

/-- The eight indicators of a payload, if each is in range (R22). -/
def indicatorsAt (p : List Byte) : Option (Table Indicator 8) := do
  let i1 ← indicatorOf (byteAt p 6) (byteAt p 7)
  let i2 ← indicatorOf (byteAt p 8) (byteAt p 9)
  let i3 ← indicatorOf (byteAt p 10) (byteAt p 11)
  let i4 ← indicatorOf (byteAt p 12) (byteAt p 13)
  let i5 ← indicatorOf (byteAt p 14) (byteAt p 15)
  let i6 ← indicatorOf (byteAt p 16) (byteAt p 17)
  let i7 ← indicatorOf (byteAt p 18) (byteAt p 19)
  let i8 ← indicatorOf (byteAt p 20) (byteAt p 21)
  some ⟨[i1, i2, i3, i4, i5, i6, i7, i8], rfl⟩

def stationBytes (a : StationId) (c : StationSettings) : List Byte :=
  [byteOf (numberOf a), boolByte c.enabled, byteOf c.expectedType, byteOf (numberOf c.homeZone), byteOf c.holdTime,
   boolByte c.report] ++ c.indicators.items.flatMap indicatorField

def stationOf (p : List Byte) : Option (StationId × StationSettings) := do
  let a ← idOf 32 (byteAt p 0)
  let enabled ← boolOf (byteAt p 1)
  let expectedType ← within 1 15 (byteAt p 2)
  let homeZone ← idOf 16 (byteAt p 3)
  let holdTime ← within 3 30 (byteAt p 4)
  let report ← boolOf (byteAt p 5)
  let indicators ← indicatorsAt p
  some (a, { enabled, expectedType, homeZone, holdTime, report, indicators })

/-! ## Binding record (R56 to R58): slot, source, trigger, action, class, zone, target, level, fade, enabled -/

/-- The action code, target, level and fade of an action; an unused field is 0, an unused fade absent (R58). -/
structure ActionFields where
  code : Nat
  target : Nat
  level : Nat
  fade : Option Nat

def Action.fields : Action → ActionFields
  | .sceneOn s fade => ⟨1, numberOf s, 0, fade⟩
  | .sceneOff s fade => ⟨2, numberOf s, 0, fade⟩
  | .sceneToggle s fade => ⟨3, numberOf s, 0, fade⟩
  | .level c l fade => ⟨4, numberOf c, l, fade⟩
  | .levelOff c fade => ⟨5, numberOf c, 0, fade⟩
  | .raise s => ⟨6, numberOf s, 0, none⟩
  | .lower s => ⟨7, numberOf s, 0, none⟩
  | .zoneClear z fade => ⟨8, numberOf z, 0, fade⟩
  | .flagSet f => ⟨9, numberOf f, 0, none⟩
  | .flagClear f => ⟨10, numberOf f, 0, none⟩
  | .flagToggle f => ⟨11, numberOf f, 0, none⟩
  | .holdForce z => ⟨12, numberOf z, 0, none⟩
  | .holdRelease z => ⟨13, numberOf z, 0, none⟩
  | .reportOnly => ⟨14, 0, 0, none⟩

/-- An absent fade on the wire (R188). -/
def absentFade : Nat := 0xFFFF

/-- A fade field of a binding: absent, or checked to lie within 3000 (R58). The outer `none` is out of range. -/
def bindingFade (n : Nat) : Option (Option Nat) :=
  if n = absentFade then some none else (within 0 3000 n).map some

/-- An action read from its fields, each field it uses checked (R58; notes/assumptions/10.md). -/
def actionOf (code target level fade : Nat) : Option Action :=
  match code with
  | 1 => (idOf 96 target).bind fun s => (bindingFade fade).map (.sceneOn s)
  | 2 => (idOf 96 target).bind fun s => (bindingFade fade).map (.sceneOff s)
  | 3 => (idOf 96 target).bind fun s => (bindingFade fade).map (.sceneToggle s)
  | 4 => (idOf 128 target).bind fun c => (within 0 1000 level).bind fun l => (bindingFade fade).map (.level c l)
  | 5 => (idOf 128 target).bind fun c => (bindingFade fade).map (.levelOff c)
  | 6 => (idOf 96 target).map .raise
  | 7 => (idOf 96 target).map .lower
  | 8 => (idOf 16 target).bind fun z => (bindingFade fade).map (.zoneClear z)
  | 9 => (idOf 8 target).map .flagSet
  | 10 => (idOf 8 target).map .flagClear
  | 11 => (idOf 8 target).map .flagToggle
  | 12 => (idOf 16 target).map .holdForce
  | 13 => (idOf 16 target).map .holdRelease
  | 14 => some .reportOnly
  | _ => none

/-- A slot as GET_BINDING returns it: an EMPTY slot is source kind 0 with all fields 0 (R60, R188). -/
def bindingBytes (b : SlotId) : Option Binding → List Byte
  | none => wordOf (numberOf b) ++ List.replicate 13 0
  | some x =>
    let f := x.action.fields
    wordOf (numberOf b) ++ sourceBytes x.source
      ++ [byteOf x.trigger.code, byteOf f.code, byteOf x.cls.code, byteOf (numberOf x.zone), byteOf f.target]
      ++ wordOf f.level ++ wordOf (f.fade.getD absentFade) ++ [boolByte x.enabled]

/-- The full form of a PUT_BINDING payload. -/
def bindingOf (p : List Byte) : Option (SlotId × Binding) := do
  let b ← idOf 512 (wordAt p 0)
  let source ← sourceOf (byteAt p 2) (byteAt p 3) (byteAt p 4)
  let trigger ← Trigger.ofCode (byteAt p 5)
  let cls ← BindingClass.ofCode (byteAt p 7)
  let zone ← idOf 16 (byteAt p 8)
  let action ← actionOf (byteAt p 6) (byteAt p 9) (wordAt p 10) (wordAt p 12)
  let enabled ← boolOf (byteAt p 14)
  some (b, { source, trigger, action, cls, zone, enabled })

/-! ## Names (R82, R140): a length and twelve bytes -/

/-- A name field at a place of a payload: a length up to 12, and characters 32 to 126 within it; the bytes beyond the
length are ignored (R188). -/
def nameAt (p : List Byte) (i : Nat) : Option (List Byte) :=
  let name := (p.drop (i + 1)).take (byteAt p i)
  if byteAt p i ≤ 12 ∧ name.all (fun c => decide (32 ≤ c.toNat) && decide (c.toNat ≤ 126)) then some name else none

/-- A name field in a reply; the bytes beyond the length are free values (R188; notes/assumptions/7.md). -/
def nameBytes (draw : Nat) (name : List Byte) : List Byte :=
  byteOf name.length :: name ++ (List.range (12 - name.length)).map (Config.namePad draw)

/-! ## Scene record (R81 to R83): scene, name, on-fade, off-fade, entry count, entries -/

def entryBytes (e : SceneEntry) : List Byte := byteOf (numberOf e.circuit) :: wordOf e.level

def sceneBytes (draw : Nat) (sc : SceneId) (c : Scene) : List Byte :=
  byteOf (numberOf sc) :: nameBytes draw c.name ++ wordOf c.onFade ++ wordOf c.offFade
    ++ [byteOf c.entries.length] ++ c.entries.flatMap entryBytes

/-- The entry count byte of a PUT_SCENE (R188). -/
def sceneCount (p : List Byte) : Nat := byteAt p 18

/-- Entries of three bytes each, each in range (R82). -/
def entriesOf : List Byte → Option (List SceneEntry)
  | c :: l :: h :: rest => do
    let circuit ← idOf 128 c.toNat
    let level ← within 0 1000 (l.toNat + 256 * h.toNat)
    let more ← entriesOf rest
    some ({ circuit, level } :: more)
  | _ => some []

/-- An entry put in its place by circuit (R83). -/
def insertEntry (e : SceneEntry) : List SceneEntry → List SceneEntry
  | [] => [e]
  | f :: rest => if e.circuit ≤ f.circuit then e :: f :: rest else f :: insertEntry e rest

/-- Entries in ascending circuit order (R83). -/
def sortEntries (l : List SceneEntry) : List SceneEntry := l.foldr insertEntry []

/-- Whether some circuit is named more than once (R83). -/
def repeatsCircuit (l : List SceneEntry) : Bool := !decide (l.map (·.circuit)).Nodup

/-- A PUT_SCENE payload, entries in the order given (R82). -/
def sceneOf (p : List Byte) : Option (SceneId × Scene) := do
  let sc ← idOf 96 (byteAt p 0)
  let name ← nameAt p 1
  let onFade ← within 0 3000 (wordAt p 14)
  let offFade ← within 0 3000 (wordAt p 16)
  let _ ← within 0 64 (sceneCount p)
  let entries ← entriesOf (p.drop 19)
  some (sc, { name, onFade, offFade, entries })

/-! ## Circuit record (R116): circuit, law, cap, preheat, rest level, default fade, on threshold, off threshold, minimum
dwell, align -/

def circuitBytes (c : CircuitId) (x : CircuitSettings) : List Byte :=
  [byteOf (numberOf c), byteOf x.law.code] ++ wordOf x.cap ++ wordOf x.preheat ++ wordOf x.rest ++ wordOf x.defaultFade
    ++ wordOf x.onThreshold ++ wordOf x.offThreshold ++ [byteOf x.minimumDwell, boolByte x.align]

def circuitOf (p : List Byte) : Option (CircuitId × CircuitSettings) := do
  let c ← idOf 128 (byteAt p 0)
  let law ← Law.ofCode (byteAt p 1)
  let cap ← within 0 1000 (wordAt p 2)
  let preheat ← within 0 1000 (wordAt p 4)
  let rest ← within 0 1000 (wordAt p 6)
  let defaultFade ← within 0 3000 (wordAt p 8)
  let onThreshold ← within 0 1000 (wordAt p 10)
  let offThreshold ← within 0 1000 (wordAt p 12)
  let minimumDwell ← within 0 50 (byteAt p 14)
  let align ← boolOf (byteAt p 15)
  some (c, { law, cap, preheat, rest, defaultFade, onThreshold, offThreshold, minimumDwell, align })

/-! ## Zone record (R140): zone, condition mask, release mode, release delay, raise rate, name -/

def zoneBytes (draw : Nat) (z : ZoneId) (x : ZoneSettings) : List Byte :=
  byteOf (numberOf z) :: wordOf x.mask.toNat ++ [byteOf x.mode.code, byteOf x.delay] ++ wordOf x.raiseRate
    ++ nameBytes draw x.name

/-- A condition mask: bits 12 to 15 name no condition (R140, R188). -/
def maskOf (n : Nat) : Option (BitVec 12) := if n < 4096 then some (BitVec.ofNat 12 n) else none

/-- The six release delays (R140). -/
def delayOf (n : Nat) : Option Nat := if n ∈ [0, 5, 10, 30, 60, 120] then some n else none

def zoneOf (p : List Byte) : Option (ZoneId × ZoneSettings) := do
  let z ← idOf 16 (byteAt p 0)
  let mask ← maskOf (wordAt p 1)
  let mode ← ReleaseMode.ofCode (byteAt p 3)
  let delay ← delayOf (byteAt p 4)
  let raiseRate ← within 10 1000 (wordAt p 5)
  let name ← nameAt p 7
  some (z, { mask, mode, delay, raiseRate, name })

/-! ## Annunciator record (R152): annunciator, function, argument -/

def functionField : AnnunciatorFunction → List Byte
  | .plain => [0, 0]
  | .zoneHeld z => [1, byteOf (numberOf z)]
  | .flag f => [2, byteOf (numberOf f)]
  | .egressActive => [3, 0]
  | .mainsLocked => [4, 0]
  | .stationFault => [5, 0]
  | .ladderFault => [6, 0]

def annunciatorBytes (a : AnnunciatorId) (f : AnnunciatorFunction) : List Byte := byteOf (numberOf a) :: functionField f

/-- For functions without an argument, the argument is not checked (R152). -/
def functionOf (code argument : Nat) : Option AnnunciatorFunction :=
  match code with
  | 0 => some .plain
  | 1 => (idOf 16 argument).map .zoneHeld
  | 2 => (idOf 8 argument).map .flag
  | 3 => some .egressActive
  | 4 => some .mainsLocked
  | 5 => some .stationFault
  | 6 => some .ladderFault
  | _ => none

def annunciatorOf (p : List Byte) : Option (AnnunciatorId × AnnunciatorFunction) := do
  let a ← idOf 8 (byteAt p 0)
  let f ← functionOf (byteAt p 1) (byteAt p 2)
  some (a, f)

/-! ## General record (R185): mains nominal, silence timeout, report mask, flag start values, enable start values -/

def generalBytes (g : GeneralSettings) : List Byte :=
  [byteOf g.nominal.code, byteOf g.silenceTimeout, byteOf g.reportMask.toNat, g.flagStart, g.enableStart]

/-- A report mask: bit 7 names no category (R185, R188). -/
def reportMaskOf (n : Nat) : Option (BitVec 7) := if n < 128 then some (BitVec.ofNat 7 n) else none

def generalOf (p : List Byte) : Option GeneralSettings := do
  let nominal ← Nominal.ofCode (byteAt p 0)
  let reportMask ← reportMaskOf (byteAt p 2)
  some { nominal, silenceTimeout := byteAt p 1, reportMask, flagStart := p.getD 3 0, enableStart := p.getD 4 0 }

/-! ## Reports (R188) -/

/-- KIND and PAYLOAD of a report (R188). -/
def Report.frame : Report → Frame
  | .event src t o => ⟨0xE1, sourceBytes src ++ [byteOf t.code, byteOf o.code]⟩
  | .zone z st f active => ⟨0xE2, [byteOf (numberOf z), byteOf st.code, boolByte f] ++ wordOf active.toNat⟩
  | .station a st t => ⟨0xE3, [byteOf (numberOf a), byteOf st.code, t]⟩
  | .ladder ch st => ⟨0xE4, [byteOf (numberOf ch), byteOf st.code]⟩
  | .mains st i => ⟨0xE5, byteOf st.code :: wordOf i⟩
  | .evicted c k => ⟨0xE6, [1, byteOf (numberOf c)] ++ ownerBytes k.owner ++ [byteOf k.cls.code]⟩
  | .refused c k => ⟨0xE6, [2, byteOf (numberOf c)] ++ ownerBytes k.owner ++ [byteOf k.cls.code]⟩
  | .rampRefused b sc => ⟨0xE6, 3 :: wordOf (numberOf b) ++ [byteOf (numberOf sc), 0, 0, 0]⟩
  | .saved ok => ⟨0xE7, [if ok then 0 else 1]⟩

/-- The bytes of a frame as they are sent (R188): SYNC, LEN, KIND, PAYLOAD, CHECK. -/
def Frame.bytes (f : Frame) : List Byte :=
  let body := byteOf (f.payload.length + 1) :: f.kind :: f.payload
  0xC3 :: body ++ [checkByte body]

/-- The frame the transmitter is sending (R180). -/
def Outgoing.frame : Outgoing → Frame
  | .reply f => f
  | .report r => r.frame

end Sys2Proof.Machine
end

