-- ==== Sys2Proof/WellFormed.lean ====
section
/-! DEFINITION. Which commands are well formed: operands within what the manual lets the world around the part present.
The bounds that the types already give (numbered things, characters) need no check. -/

namespace Sys2Proof

/-- A payload of the control link holds 0 to 240 bytes (section 10.1). -/
def payloadOk (payload : List Byte) : Bool := decide (payload.length ≤ 240)

/-- A ladder reading is a count 0 to 1023 (section 1.6). -/
def readingOk (reading : Nat) : Bool := decide (reading ≤ 1023)

/-- A complete reply of a known kind carries as many data bytes as its kind has (R189): one in a STATE reply, two in an
IDENT reply. -/
def BusReply.wf (r : BusReply) : Bool :=
  if r.kind = 0x81 then decide (r.data.length = 1)
  else if r.kind = 0x82 then decide (r.data.length = 2)
  else true

/-- The request kinds of section 10.9 (R188). -/
def requestKinds : List Byte :=
  [0x01, 0x02, 0x03, 0x08, 0x09, 0x10, 0x11, 0x12, 0x13, 0x18, 0x19, 0x1A, 0x1B, 0x1C, 0x20, 0x21, 0x22, 0x23, 0x24,
   0x30, 0x31, 0x32, 0x33, 0x34, 0x35, 0x36, 0x37, 0x38, 0x40, 0x41, 0x42, 0x43, 0x44, 0x45, 0x46, 0x47, 0x48]

/-- Whether a command's operands are ones the world can present. -/
def Instr.wf : Instr → Bool
  | .powerOn | .resetLine | .replyWindowOpen | .replyWindowClose | .tick | .mainsSilenceExpiry | .gapTimerExpiry
  | .silenceTimerExpiry | .transmitFrameEnd | .damagedEntry | .resetInputAsserted | .lossOfSupply => true
  | .contactSample _ _ | .changeAccepted _ _ | .settlingComplete _ _ | .flash3OverrideEnd _ _ | .holdTimerExpiry _
  | .fadeEnd _ | .dwellEnd _ | .zeroCrossing _ | .mainsLock _ | .releaseTimerExpiry _ | .characterReceived _ _
  | .saveEnd _ => true
  | .ladderSample _ r | .ladderDecodeChange _ r | .ladderBaseline _ r | .ladderFaultEntry _ r
  | .ladderRecovery _ r => readingOk r
  | .stateReply r => r.wf && decide (r.kind = 0x81)
  | .identReply r => r.wf && decide (r.kind = 0x82)
  | .badReply r => r.wf
  | .stationGoesMissing none => true
  | .stationGoesMissing (some r) => r.wf
  | .unknownKind k p => payloadOk p && !requestKinds.contains k
  | .hello p | .status p | .cause p | .save p | .restart p | .setFlags p | .force p | .release p | .setAnnunciator p
  | .recallRequest p | .drop p | .levelRequest p | .clear p | .dropRestart p | .queryCircuit p | .queryScene p | .queryZone p
  | .queryStation p | .queryInputs p | .putInput p | .getInput p | .putLadder p | .getLadder p | .putStation p
  | .getStation p | .putBinding p | .getBinding p | .putScene p | .getScene p | .putCircuit p | .getCircuit p
  | .putZone p | .getZone p | .putAnnunciator p | .getAnnunciator p | .putGeneral p | .getGeneral p => payloadOk p

end Sys2Proof
end

