-- ==== Sys2Proof/Machine/Link.lean ====
section
/-! DEFINITION. The control link (sections 10.1 to 10.4): the receive framer, the silence timer, the taking of requests
and their replies, the transmitter's frame end. -/

namespace Sys2Proof.Machine

/-! ## The silence timer (R174) -/

/-- The bit of LINK_SILENT in a condition mask (R188). -/
def silentBit : Nat := 10

/-- The silence timer takes a new value; where LINK_SILENT changes with it, the zone unit is told (R174). -/
def setSilence (t : SilenceTimer) (s : State) : State :=
  let s' := { s with silence := t }
  if linkSilent s = linkSilent s' then s' else reevaluateWhere (masks s' silentBit) s'

/-- The timer restarted at full length, or not running with a timeout of 0 (R174). -/
def silenceStart (timeout : Nat) : SilenceTimer := if timeout = 0 then .stopped else .running (timeout * 1000)

/-! ## Frames received (R172, R173) -/

/-- The gap timer, 20 ms (R172). -/
def gapTime : Nat := 20

/-- A frame at the tail of the pending request queue, or discarded where 4 wait (R173). -/
def enqueue (e : Entry) (s : State) : State :=
  if s.requests.length < 4 then { s with requests := s.requests ++ [e] } else s

/-- A complete frame, judged (R173): a valid one first restarts the silence timer. -/
def receiveEntry (e : Entry) (s : State) : State :=
  match e with
  | .request _ _ => enqueue e (setSilence (silenceStart s.settings.general.silenceTimeout) s)
  | .damaged => enqueue e s

/-- What a complete frame is, from its LEN and the bytes after it (R173). -/
def entryOf (len : Nat) (bytes : List Byte) : Entry :=
  if (byteOf len :: bytes).foldl (· + ·) 0 = 0 then
    match bytes with
    | kind :: rest => .request kind rest.dropLast
    | [] => .damaged
  else .damaged

/-- A character without a stop-bit error, in each state of the framer (R172). -/
def goodCharacter (c : Byte) (s : State) : State :=
  match s.framer with
  | .idle => if c = 0xC3 then { s with framer := .awaitLen gapTime } else s
  | .awaitLen _ =>
    if 1 ≤ c.toNat ∧ c.toNat ≤ 241 then { s with framer := .body c.toNat [] gapTime } else { s with framer := .idle }
  | .body len bytes _ =>
    if bytes.length + 1 < len + 1 then { s with framer := .body len (bytes ++ [c]) gapTime }
    else receiveEntry (entryOf len (bytes ++ [c])) { s with framer := .idle }

/-- A character received (R172); a stop-bit error abandons a frame in reception and is ignored in IDLE. -/
def takeCharacter (c : Byte) (stopBitError : Bool) (s : State) : State :=
  if stopBitError then { s with framer := .idle } else goodCharacter c s

/-! ## Requests taken and answered (R176 to R178) -/

/-- The status codes (R177). -/
inductive Status where
  | done
  | stillHeld
  | frame
  | kind
  | length
  | busy
  | range
  | duplicate
  | denied
  | full
  deriving DecidableEq, Repr

/-- The code of a status (R188). -/
def Status.code : Status → Byte
  | .done => 0x00
  | .stillHeld => 0x01
  | .frame => 0x10
  | .kind => 0x11
  | .length => 0x12
  | .busy => 0x13
  | .range => 0x14
  | .duplicate => 0x15
  | .denied => 0x16
  | .full => 0x17

/-- A request carried out or turned away: the state, the status, and the results listed for it. -/
structure Answer where
  state : State
  status : Status
  results : List Byte

/-- A request turned away by a check: nothing changes (R177). -/
def refuse (status : Status) (s : State) : Answer := { state := s, status := status, results := [] }

/-- A request carried out, with its results. -/
def done (results : List Byte) (s : State) : Answer := { state := s, status := .done, results := results }

/-- The reply of a known request (R178): its kind plus 80h, the status, and the results when the status is DONE or
STILL_HELD. -/
def replyFrame (kind : Byte) (a : Answer) : Frame :=
  { kind := kind + 0x80
    payload := a.status.code :: (match a.status with
      | .done | .stillHeld => a.results
      | .frame | .kind | .length | .busy | .range | .duplicate | .denied | .full => []) }

/-- Whether an entry can be taken now (R176): the reply slot is empty and the entry is at the head of the pending queue;
or the queue is empty and its frame is received whole first, between frames (notes/assumptions/3.md). -/
def takable (e : Entry) (s : State) : Bool :=
  s.replySlot.isNone &&
    (match s.requests with
    | q :: _ => decide (q = e)
    | [] => decide (s.framer = .idle))

/-- The entry leaves the head of the pending queue and is being carried out (R176); its frame is received first where the
queue is empty. The reports that wait by then are none of its own (R179). -/
def dequeue (e : Entry) (s : State) : State :=
  let s := match s.requests with
    | _ :: _ => s
    | [] => receiveEntry e s
  { s with requests := s.requests.tail, carrying := true, ahead := some s.reports.length }

/-- An entry is taken and its reply placed in the reply slot (R176, R178). -/
def take (e : Entry) (carry : State → State × Frame) (s : State) : State :=
  let r := carry (dequeue e s)
  { r.1 with replySlot := some r.2, carrying := false, ahead := none }

/-- A request is taken, carried out and answered (R176 to R178). -/
def takeRequest (kind : Byte) (carry : List Byte → State → Answer) (p : List Byte) : State → State :=
  take (.request kind p) fun s => ((carry p s).state, replyFrame kind (carry p s))

/-- The command of a known request: it is taken where it can be (R176). -/
def request (kind : Byte) (carry : List Byte → State → Answer) (p : List Byte) (s : State) :
    Host.Outcome State Fault Refusal :=
  eventIf (takable (.request kind p)) (takeRequest kind carry p) s

/-! ## The commands -/

/-- CHARACTER_RECEIVED (R172, R173). -/
def execCharacterReceived (c : Byte) (stopBitError : Bool) (s : State) : Host.Outcome State Fault Refusal :=
  event (takeCharacter c stopBitError) s

/-- GAP_TIMER_EXPIRY (R172): only inside a frame. -/
def execGapTimerExpiry (s : State) : Host.Outcome State Fault Refusal :=
  eventIf (fun s => decide (s.framer ≠ .idle)) (fun s => { s with framer := .idle }) s

/-- SILENCE_TIMER_EXPIRY (R174): only while the timer runs. -/
def execSilenceTimerExpiry (s : State) : Host.Outcome State Fault Refusal :=
  eventIf (fun s => match s.silence with | .running _ => true | .stopped | .expired => false)
    (setSilence .expired) s

/-- TRANSMIT_FRAME_END (R180): the transmitter returns to IDLE and chooses again at once. -/
def execTransmitFrameEnd (s : State) : Host.Outcome State Fault Refusal :=
  eventIf (fun s => s.sending.isSome) (fun s => { s with sending := none }) s

/-- DAMAGED_ENTRY (R178): KIND 80h and the status FRAME alone. -/
def execDamagedEntry (s : State) : Host.Outcome State Fault Refusal :=
  eventIf (takable .damaged)
    (take .damaged fun s => (s, { kind := 0x80, payload := [Status.code .frame] })) s

/-- Whether a KIND is a request kind of section 10.9 (R177). -/
def knownKind (k : Byte) : Bool := requestKinds.contains k

/-- UNKNOWN_KIND (R178): KIND 80h, the status KIND and the kind byte received. -/
def execUnknownKind (k : Byte) (p : List Byte) (s : State) : Host.Outcome State Fault Refusal :=
  eventIf (fun s => !knownKind k && takable (.request k p) s)
    (take (.request k p) fun s => (s, { kind := 0x80, payload := [Status.code .kind, k] })) s

end Sys2Proof.Machine
end

