-- ==== Sys2Proof/Machine/Store.lean ====
section
/-! DEFINITION. The configuration store's saves and the reset-cause record's reading (sections 11.2 and 11.4). -/

namespace Sys2Proof.Machine

/-- A save starts (R192): the store is SAVING and the image is marked invalid. -/
def startSave (s : State) : State := { s with saving := true, image := none }

/-- A save ends (R192): where it verifies the image holds the live configuration, which no write has changed since the
SAVE (R193); otherwise it stays invalid. A SAVED report is raised. -/
def endSave (verified : Bool) (s : State) : State :=
  raise (.saved verified)
    { s with saving := false, image := if verified then some s.settings else none }

/-- SAVE (R186, R192). -/
def carrySave (p : List Byte) (s : State) : Answer :=
  if p.length ≠ 0 then refuse .length s
  else if s.saving then refuse .busy s
  else done [] (startSave s)

/-- The flags of the reset-cause record as one byte (R188). -/
def ResetCauses.byte (c : ResetCauses) : Byte :=
  byteOf (c.powerOn.toNat + 2 * c.resetLine.toNat + 4 * c.restart.toNat + 8 * c.storeEmpty.toNat)

/-- Reset-cause pending (R197): any of the four flags is set. -/
def ResetCauses.any (c : ResetCauses) : Bool := c.powerOn || c.resetLine || c.restart || c.storeEmpty

/-- CAUSE (R197): the flags as they stand, then all four cleared. -/
def carryCause (p : List Byte) (s : State) : Answer :=
  if p.length ≠ 0 then refuse .length s
  else done [s.causes.byte] { s with causes := ResetCauses.clear }

/-- SAVE. -/
def execSave (p : List Byte) (s : State) : Host.Outcome State Fault Refusal := request 0x08 carrySave p s

/-- CAUSE. -/
def execCause (p : List Byte) (s : State) : Host.Outcome State Fault Refusal := request 0x03 carryCause p s

/-- SAVE_END (R192): only while the store is SAVING. -/
def execSaveEnd (verified : Bool) (s : State) : Host.Outcome State Fault Refusal :=
  eventIf (fun s => s.saving) (endSave verified) s

end Sys2Proof.Machine
end

