-- ==== Sys2Proof/Machine/RuntimeRequests.lean ====
section
/-! DEFINITION. The runtime requests (R182). Each checks its length, then its ranges, then what its class may have, in
the order of R177. -/

namespace Sys2Proof.Machine

/-- A level field, clamped to 1000 (R182). -/
def clampedLevel (n : Nat) : Nat := min n 1000

/-- A required fade field, clamped to 3000 (R182). -/
def clampedFade (n : Nat) : Nat := min n 3000

/-- The optional fade of RECALL and DROP: FFFFh is absent (R182). -/
def optionalFade (n : Nat) : Option Nat := if n = absentFade then none else some (clampedFade n)

/-- The classes a request may name (R108, R110). -/
def ClaimClass.ofHost : ClaimClass → Bool
  | .base | .performance => true
  | .loc | .egress => false

/-- SET_FLAGS (R137). -/
def carrySetFlags (p : List Byte) (s : State) : Answer :=
  if p.length ≠ 2 then refuse .length s
  else
    let mask := p.getD 0 0
    let values := p.getD 1 0
    done [] (changeFlags ((s.flags &&& ~~~mask) ||| (values &&& mask)) s)

/-- FORCE (R144). -/
def carryForce (p : List Byte) (s : State) : Answer :=
  if p.length ≠ 1 then refuse .length s
  else match idOf 16 (byteAt p 0) with
    | none => refuse .range s
    | some z => done [] (forceZone z s)

/-- RELEASE (R145, R146). -/
def carryRelease (p : List Byte) (s : State) : Answer :=
  if p.length ≠ 1 then refuse .length s
  else match idOf 16 (byteAt p 0) with
    | none => refuse .range s
    | some z =>
      let s' := releaseZone z s
      { state := s', status := if (s'.zones.get z).state = .held then .stillHeld else .done, results := [] }

/-- SET_ANNUNCIATOR (R153). -/
def carrySetAnnunciator (p : List Byte) (s : State) : Answer :=
  if p.length ≠ 1 then refuse .length s
  else done [] { s with enables := p.getD 0 0 }

/-- RECALL (R88, R110). -/
def carryRecall (p : List Byte) (s : State) : Answer :=
  if p.length ≠ 4 then refuse .length s
  else match idOf 96 (byteAt p 0), ClaimClass.ofCode (byteAt p 1) with
    | some sc, some cls =>
      if cls.ofHost then done [] (placeScene sc cls none (optionalFade (wordAt p 2)) s)
      else refuse .denied s
    | none, _ | some _, none => refuse .range s

/-- DROP (R88, R110). -/
def carryDrop (p : List Byte) (s : State) : Answer :=
  if p.length ≠ 4 then refuse .length s
  else match idOf 96 (byteAt p 0), ClaimClass.ofCode (byteAt p 1) with
    | some sc, some cls =>
      if cls.ofHost then done [] (withdrawScene sc cls (optionalFade (wordAt p 2)) s)
      else refuse .denied s
    | none, _ | some _, none => refuse .range s

/-- The REMOTE claim a LEVEL request places (R108). -/
def remoteClaim (cls : ClaimClass) (level : Nat) : Claim :=
  { owner := .remote, cls := cls, level := clampedLevel level, zone := none }

/-- LEVEL (R108): answered FULL where the placement is refused by a full claim list. -/
def carryLevel (p : List Byte) (s : State) : Answer :=
  if p.length ≠ 6 then refuse .length s
  else match idOf 128 (byteAt p 0), ClaimClass.ofCode (byteAt p 1) with
    | some c, some cls =>
      if cls.ofHost then
        let claim := remoteClaim cls (wordAt p 2)
        { state := place c claim (clampedFade (wordAt p 4)) s
          status := if placementRefused c claim s then .full else .done
          results := [] }
      else refuse .denied s
    | none, _ | some _, none => refuse .range s

/-- CLEAR (R109). -/
def carryClear (p : List Byte) (s : State) : Answer :=
  if p.length ≠ 4 then refuse .length s
  else match idOf 128 (byteAt p 0), ClaimClass.ofCode (byteAt p 1) with
    | some c, some cls =>
      if cls.ofHost then done [] (withdraw c { owner := .remote, cls := cls } (clampedFade (wordAt p 2)) s)
      else refuse .denied s
    | none, _ | some _, none => refuse .range s

/-- DROP_RESTART (R112). -/
def carryDropRestart (p : List Byte) (s : State) : Answer :=
  if p.length ≠ 2 then refuse .length s
  else done [] (withdrawEverywhere { owner := .restart, cls := .base } (clampedFade (wordAt p 0)) s)

def execSetFlags (p : List Byte) (s : State) : Host.Outcome State Fault Refusal := request 0x10 carrySetFlags p s
def execForce (p : List Byte) (s : State) : Host.Outcome State Fault Refusal := request 0x11 carryForce p s
def execRelease (p : List Byte) (s : State) : Host.Outcome State Fault Refusal := request 0x12 carryRelease p s
def execSetAnnunciator (p : List Byte) (s : State) : Host.Outcome State Fault Refusal :=
  request 0x13 carrySetAnnunciator p s
def execRecall (p : List Byte) (s : State) : Host.Outcome State Fault Refusal := request 0x18 carryRecall p s
def execDrop (p : List Byte) (s : State) : Host.Outcome State Fault Refusal := request 0x19 carryDrop p s
def execLevelRequest (p : List Byte) (s : State) : Host.Outcome State Fault Refusal := request 0x1A carryLevel p s
def execClear (p : List Byte) (s : State) : Host.Outcome State Fault Refusal := request 0x1B carryClear p s
def execDropRestart (p : List Byte) (s : State) : Host.Outcome State Fault Refusal := request 0x1C carryDropRestart p s

end Sys2Proof.Machine
end

