-- ==== Sys2Proof/Machine/SceneStore.lean ====
section
/-! DEFINITION. The scene store's write (R82 to R85). -/

namespace Sys2Proof.Machine

/-- The entry pool (R84). -/
def poolSize : Nat := 2048

/-- The pool's used count (R84). -/
def poolUsed (s : State) : Nat := (s.settings.scenes.items.map fun c => c.entries.length).sum

/-- Whether a scene with `n` entries has room (R84): the free count, with the scene's own entries counted as free. -/
def hasRoom (sc : SceneId) (n : Nat) (s : State) : Bool :=
  decide (n + poolUsed s ≤ poolSize + (s.settings.scenes.get sc).entries.length)

/-- An accepted PUT_SCENE (R83, R85, R90): the record replaced whole, its entries sorted; claims, targets, fades and
ramps stay. -/
def writeScene (sc : SceneId) (c : Scene) (s : State) : State :=
  s.setSettings
    { s.settings with scenes := s.settings.scenes.set sc { c with entries := sortEntries c.entries } }

/-- PUT_SCENE (R82 to R85): its length is 19 bytes and 3 for each entry (R188). -/
def carryPutScene (p : List Byte) (s : State) : Answer :=
  if p.length < 19 ∨ p.length ≠ 19 + 3 * sceneCount p then refuse .length s
  else if s.saving then refuse .busy s
  else match sceneOf p with
    | none => refuse .range s
    | some (sc, c) =>
      if repeatsCircuit c.entries then refuse .duplicate s
      else if hasRoom sc c.entries.length s then done [] (writeScene sc c s)
      else refuse .full s

/-- PUT_SCENE. -/
def execPutScene (p : List Byte) (s : State) : Host.Outcome State Fault Refusal := request 0x34 carryPutScene p s

end Sys2Proof.Machine
end

