-- ==== Sys2Proof/Machine/Reads.lean ====
section
/-! DEFINITION. The reads (R183). -/

namespace Sys2Proof.Machine

/-- A two-byte word of an implementation constant, least significant byte first (R188). -/
def revisionBytes (w : BitVec 16) : List Byte := [w.extractLsb' 0 8, w.extractLsb' 8 8]

/-- HELLO (R183): part code 128, hardware revision, firmware revision. -/
def carryHello (p : List Byte) (s : State) : Answer :=
  if p.length ≠ 0 then refuse .length s
  else done (wordOf 128 ++ [Config.hardwareRevision] ++ revisionBytes Config.firmwareRevision) s

/-- STATUS (R183): the lost count is placed in the reply and then set to 0. -/
def carryStatus (p : List Byte) (s : State) : Answer :=
  if p.length ≠ 0 then refuse .length s
  else
    done [boolByte s.causes.any, boolByte s.saving, byteOf s.mains.state.code, boolByte (egressActive s),
      byteOf (heldZones s).length, byteOf s.lost] { s with lost := 0 }

/-- The fade remaining in ticks (R124). -/
def fadeRemaining (c : Circuit) : Nat :=
  match c.fade with
  | some f => f.steps - f.count
  | none => 0

/-- The results of QUERY_CIRCUIT (R114, R124). -/
def circuitResults (cs : CircuitSettings) (c : Circuit) : List Byte :=
  wordOf c.level ++ wordOf (c.target cs) ++ wordOf (fadeRemaining c)
    ++ [boolByte c.relay.state, byteOf c.claims.length] ++ c.claims.flatMap claimBytes

/-- QUERY_CIRCUIT (R114). -/
def carryQueryCircuit (p : List Byte) (s : State) : Answer :=
  if p.length ≠ 1 then refuse .length s
  else match idOf 128 (byteAt p 0) with
    | none => refuse .range s
    | some c => done (circuitResults (s.settings.circuits.get c) (s.circuits.get c)) s

/-- QUERY_SCENE (R93). -/
def carryQueryScene (p : List Byte) (s : State) : Answer :=
  if p.length ≠ 1 then refuse .length s
  else match idOf 96 (byteAt p 0) with
    | none => refuse .range s
    | some sc => done [byteOf (sceneStatus s sc).code] s

/-- The results of QUERY_ZONE (R151). -/
def zoneResults (s : State) (z : ZoneId) : List Byte :=
  [byteOf (s.zones.get z).state.code, boolByte (s.zones.get z).force] ++ wordOf (activeMasked s z).toNat ++ [s.flags]

/-- QUERY_ZONE (R151). -/
def carryQueryZone (p : List Byte) (s : State) : Answer :=
  if p.length ≠ 1 then refuse .length s
  else match idOf 16 (byteAt p 0) with
    | none => refuse .range s
    | some z => done (zoneResults s z) s

/-- The results of QUERY_STATION (R35). -/
def stationResults (st : StationState) : List Byte :=
  [byteOf st.state.code, st.reportedType, byteOf st.reportedButtons] ++ wordOf st.badReplies ++ wordOf st.noReplies

/-- QUERY_STATION (R35): with the clear option both tallies are zeroed after their values are placed in the reply. -/
def carryQueryStation (p : List Byte) (s : State) : Answer :=
  if p.length ≠ 2 then refuse .length s
  else match idOf 32 (byteAt p 0), boolOf (byteAt p 1) with
    | some a, some clear =>
      let st := s.stations.get a
      done (stationResults st) (if clear then s.setStation a { st with badReplies := 0, noReplies := 0 } else s)
    | none, _ | some _, none => refuse .range s

/-- What QUERY_INPUTS reads of an input: CLOSED, or OPEN, which also stands for a settling input and for function LADDER
(R5). -/
def readsClosed (s : State) (i : InputId) : Bool :=
  decide ((s.settings.inputs.get i).function = .contact) && decide ((s.inputs.get i).conditioning = .running)
    && decide ((s.inputs.get i).filtered = .closed)

/-- Eight inputs in one byte (R188). -/
def inputByte (s : State) (k : Fin 6) : Byte :=
  byteOf ((List.finRange 8).foldl
    (fun n j => n + if readsClosed s ⟨8 * k.val + j.val, by omega⟩ then 2 ^ j.val else 0) 0)

/-- What QUERY_INPUTS reads of a channel (R14). -/
def readDecode (l : LadderState) : Nat :=
  match l.state with
  | .normal => if l.baselinePending then 0 else l.decode
  | .inactive | .fault => 0

/-- The results of QUERY_INPUTS (R5, R14). -/
def inputResults (s : State) : List Byte :=
  (List.finRange 6).map (inputByte s) ++ s.ladders.items.map fun l => byteOf (readDecode l)

/-- QUERY_INPUTS (R5). -/
def carryQueryInputs (p : List Byte) (s : State) : Answer :=
  if p.length ≠ 0 then refuse .length s else done (inputResults s) s

def execHello (p : List Byte) (s : State) : Host.Outcome State Fault Refusal := request 0x01 carryHello p s
def execStatus (p : List Byte) (s : State) : Host.Outcome State Fault Refusal := request 0x02 carryStatus p s
def execQueryCircuit (p : List Byte) (s : State) : Host.Outcome State Fault Refusal := request 0x20 carryQueryCircuit p s
def execQueryScene (p : List Byte) (s : State) : Host.Outcome State Fault Refusal := request 0x21 carryQueryScene p s
def execQueryZone (p : List Byte) (s : State) : Host.Outcome State Fault Refusal := request 0x22 carryQueryZone p s
def execQueryStation (p : List Byte) (s : State) : Host.Outcome State Fault Refusal := request 0x23 carryQueryStation p s
def execQueryInputs (p : List Byte) (s : State) : Host.Outcome State Fault Refusal := request 0x24 carryQueryInputs p s

end Sys2Proof.Machine
end

