-- ==== Sys2Proof/Machine/Relays.lean ====
section
/-! DEFINITION. The relay sequencer (section 9.1). -/

namespace Sys2Proof.Machine

/-- A change is applied (R158): the relay state, the waiting change dropped, the dwell started afresh. A minimum dwell of
0 leaves the dwell over at once (R157). -/
def Relay.apply (cs : CircuitSettings) (request : Bool) : Relay :=
  { state := request, dwellRunning := decide (cs.minimumDwell ≠ 0), elapsed := 0, waiting := .none }

/-- A change whose dwell is over is placed at a crossing, or applied (R158, R160). -/
def Relay.afterDwell (cs : CircuitSettings) (locked request : Bool) (r : Relay) : Relay :=
  if cs.align && locked then { r with waiting := .atCrossing request } else Relay.apply cs request

/-- The relay request is handed to the sequencer (R158, R159). -/
def Relay.hand (cs : CircuitSettings) (locked request : Bool) (r : Relay) : Relay :=
  if request = r.state then { r with waiting := .none }
  else
    match r.waiting with
    | .afterDwell _ => { r with waiting := .afterDwell request }
    | .atCrossing _ => { r with waiting := .atCrossing request }
    | .none =>
      if r.dwellRunning then { r with waiting := .afterDwell request }
      else r.afterDwell cs locked request

/-- The dwell of a circuit ends (R160). -/
def Relay.endDwell (cs : CircuitSettings) (locked : Bool) (r : Relay) : Relay :=
  let r := { r with dwellRunning := false, elapsed := max r.elapsed (cs.minimumDwell * 100) }
  match r.waiting with
  | .afterDwell request => r.afterDwell cs locked request
  | .none | .atCrossing _ => r

/-- A change waiting at a crossing is applied (R161, R162). -/
def Relay.cross (cs : CircuitSettings) (r : Relay) : Relay :=
  match r.waiting with
  | .atCrossing request => Relay.apply cs request
  | .none | .afterDwell _ => r

/-- The minimum dwell has been rewritten (R163): the dwell ends at the last change plus the new minimum dwell. -/
def Relay.newDwell (cs : CircuitSettings) (locked : Bool) (r : Relay) : Relay :=
  if r.elapsed < cs.minimumDwell * 100 then
    { r with
      dwellRunning := true
      waiting := match r.waiting with
        | .atCrossing request => if r.dwellRunning then .atCrossing request else .afterDwell request
        | w => w }
  else if r.dwellRunning then r.endDwell cs locked
  else r

/-- The record at a warm restart (R164): the dwell started afresh, any waiting change dropped. -/
def Relay.restart (cs : CircuitSettings) (r : Relay) : Relay := Relay.apply cs r.state

/-- Whether the mains tracker is LOCKED, as the sequencer reads it (R170). -/
def mainsLocked (s : State) : Bool := decide (s.mains.state = .locked)

/-- Every change waiting at a crossing is applied (R161, R162). -/
def applyCrossings (s : State) : State := changeCircuits (fun cs c => { c with relay := c.relay.cross cs }) s

/-- DWELL_END (R160): only while the circuit's dwell runs. -/
def execDwellEnd (c : CircuitId) (s : State) : Host.Outcome State Fault Refusal :=
  eventIf (fun s => (s.circuits.get c).relay.dwellRunning)
    (fun s => s.setCircuit c
      { s.circuits.get c with
        relay := (s.circuits.get c).relay.endDwell (s.settings.circuits.get c) (mainsLocked s) }) s

end Sys2Proof.Machine
end

