-- ==== Sys2Proof/Machine/MainsTracker.lean ====
section
/-! DEFINITION. The mains tracker (section 9.3). -/

namespace Sys2Proof.Machine

/-- The lock window of a nominal frequency (R167), both bounds inside. -/
def inLockWindow (n : Nominal) (interval : Nat) : Bool :=
  match n with
  | .hz50 => decide (9800 ≤ interval) && decide (interval ≤ 10200)
  | .hz60 => decide (8167 ≤ interval) && decide (interval ≤ 8499)

/-- The keep window of a nominal frequency (R167), both bounds inside. -/
def inKeepWindow (n : Nominal) (interval : Nat) : Bool :=
  match n with
  | .hz50 => decide (9400 ≤ interval) && decide (interval ≤ 10600)
  | .hz60 => decide (7833 ≤ interval) && decide (interval ≤ 8833)

/-- The tracker's silence timer, 40 ms (R167). -/
def mainsSilence : Nat := 40

/-- The intervals inside the lock window that lock the tracker (R168). -/
def lockIntervals : Nat := 16

/-- The bit of MAINS_UNLOCKED in a condition mask (R188). -/
def mainsBit : Nat := 11

/-- The tracker takes a new record (R162, R168, R170): on leaving LOCKED the changes waiting at a crossing are applied; a
changed state is reported; a change into or out of LOCKED re-evaluates the zones that mask MAINS_UNLOCKED. -/
def changeMains (m : Mains) (s : State) : State :=
  let old := s.mains.state
  let s := { s with mains := m }
  let s := if old = .locked ∧ m.state ≠ .locked then applyCrossings s else s
  let s := if old = m.state then s else raise (.mains m.state m.lastInterval) s
  if old = .locked ↔ m.state = .locked then s else reevaluateWhere (masks s mainsBit) s

/-- The tracker after an interval is judged (R168). -/
def Mains.judge (n : Nominal) (interval : Nat) (m : Mains) : Mains :=
  match m.state with
  | .absent => m
  | .acquiring =>
    if inLockWindow n interval then
      { m with lockCount := m.lockCount + 1,
               state := if lockIntervals ≤ m.lockCount + 1 then .locked else .acquiring }
    else { m with lockCount := 0 }
  | .locked => if inKeepWindow n interval then m else { m with state := .acquiring, lockCount := 0 }

/-- The tracker after 40 ms without a crossing (R168). -/
def Mains.silent (m : Mains) : Mains :=
  { m with state := .absent, previous := none, lockCount := 0, silence := none }

/-- The tracker after a crossing (R167, R168): the timer restarted, the interval from a held previous crossing measured
and judged; a crossing in ABSENT enters ACQUIRING unjudged. -/
def Mains.crossing (n : Nominal) (moment : Nat) (m : Mains) : Mains :=
  let judged :=
    match m.previous with
    | some p => ({ m with lastInterval := moment - p } : Mains).judge n (moment - p)
    | none => m
  { judged with
    previous := some moment
    silence := some mainsSilence
    state := if m.state = .absent then .acquiring else judged.state
    lockCount := if m.state = .absent then 0 else judged.lockCount }

/-- Whether the silence timer has expired before a crossing: no interval longer than 40 ms is ever judged (R167;
notes/assumptions/17.md). -/
def silentBefore (moment : Nat) (m : Mains) : Bool :=
  match m.previous, m.silence with
  | some p, some _ => decide (40000 < moment - p)
  | some _, none | none, _ => false

/-- 40 ms without a crossing (R168). -/
def expireMains (s : State) : State := changeMains s.mains.silent s

/-- A crossing of a tracker whose silence timer has not expired (R161, R167, R168). -/
def takeCrossing (moment : Nat) (s : State) : State :=
  let s := if mainsLocked s then applyCrossings s else s
  changeMains (s.mains.crossing s.settings.general.nominal moment) s

/-- A zero crossing at a moment in microseconds. -/
def crossMains (moment : Nat) (s : State) : State :=
  takeCrossing moment (if silentBefore moment s.mains then expireMains s else s)

/-- Whether a crossing is the one that locks the tracker (R168). -/
def locksAt (moment : Nat) (s : State) : Bool :=
  !mainsLocked s && !silentBefore moment s.mains
    && decide ((s.mains.crossing s.settings.general.nominal moment).state = .locked)

/-- ZERO_CROSSING (R167, R168). -/
def execZeroCrossing (moment : Nat) (s : State) : Host.Outcome State Fault Refusal := event (crossMains moment) s

/-- MAINS_LOCK (R168): the crossing that brings the lock count to 16. -/
def execMainsLock (moment : Nat) (s : State) : Host.Outcome State Fault Refusal :=
  eventIf (locksAt moment) (crossMains moment) s

/-- MAINS_SILENCE_EXPIRY (R168): only in ACQUIRING or LOCKED, while the timer runs. -/
def execMainsSilenceExpiry (s : State) : Host.Outcome State Fault Refusal :=
  eventIf (fun s => decide (s.mains.state ≠ .absent) && s.mains.silence.isSome) expireMains s

end Sys2Proof.Machine
end

