-- ==== Sys2Proof/Machine/Levels.lean ====
section
/-! DEFINITION. The level engine's tick (chapter 7) with the refresh frame it starts (R165). -/

namespace Sys2Proof.Machine

/-- The tick's spacing in milliseconds (R123). -/
def tickTime : Nat := 20

/-! ## Stage 1: ramps (R126, R127) -/

/-- A circuit's ramp limit (R127). -/
def rampLimit (cs : CircuitSettings) : Nat :=
  match cs.law with
  | .linear | .square => cs.cap
  | .switched => 1000

/-- A claim's level after a ramp step (R127). -/
def rampLevel (d : Direction) (step limit level : Nat) : Nat :=
  match d with
  | .up => if level < limit then min (level + step) limit else level
  | .down => level - step

/-- Whether a ramp moves a claim: owner, scene and class (R127). -/
def Ramp.moves (r : Ramp) (c : Claim) : Bool := decide (c.owner = .scene r.scene) && decide (c.cls = r.cls.claim)

/-- A claim after a ramp step (R104, R127). -/
def Ramp.moveClaim (r : Ramp) (step limit : Nat) (c : Claim) : Claim :=
  if r.moves c then { c with level := rampLevel r.direction step limit c.level } else c

/-- A circuit after a ramp step (R104, R127): where the effective claim's level changed, the fade is removed and L takes
it. -/
def Ramp.moveCircuit (r : Ramp) (step : Nat) (cs : CircuitSettings) (c : Circuit) : Circuit :=
  let claims := c.claims.map (r.moveClaim step (rampLimit cs))
  match c.claims, claims with
  | old :: _, new :: _ =>
    if old.level = new.level then { c with claims := claims }
    else { c with claims := claims, level := new.level, fade := none }
  | _, _ => { c with claims := claims }

/-- The step of a ramp at this tick (R126). -/
def Ramp.step (r : Ramp) : Nat := (r.accumulator + r.rate) / 50

/-- The ramp after a tick (R126). -/
def Ramp.advance (r : Ramp) : Ramp := { r with accumulator := (r.accumulator + r.rate) % 50 }

/-- One ramp's step on every circuit; a step of 0 moves nothing (R126, R127). -/
def stepRamp (s : State) (r : Ramp) : State :=
  if r.step = 0 then s else changeCircuits (r.moveCircuit r.step) s

/-- Stage 1: every ramp takes its step, in ascending binding slot (R123, R128). -/
def stepRamps (s : State) : State :=
  let s := s.ramps.foldl stepRamp s
  { s with ramps := s.ramps.map Ramp.advance }

/-! ## Stage 2: fades (R121) -/

/-- S + trunc((T - S) × k / N): trunc drops the fraction toward S (R121). -/
def Fade.levelAt (f : Fade) (k : Nat) : Nat :=
  if f.start ≤ f.target then f.start + (f.target - f.start) * k / f.steps
  else f.start - (f.start - f.target) * k / f.steps

/-- A circuit's fade step (R121): at the last step the level is the target and the record is removed. -/
def Circuit.fadeStep (c : Circuit) : Circuit :=
  match c.fade with
  | none => c
  | some f =>
    if f.steps ≤ f.count + 1 then { c with level := f.target, fade := none }
    else { c with level := f.levelAt (f.count + 1), fade := some { f with count := f.count + 1 } }

/-! ## Stage 3: clamp, law, relay request (R131 to R134) -/

/-- The clamped level (R131). -/
def clampLevel (cs : CircuitSettings) (level : Nat) : Nat := min (max level cs.preheat) cs.cap

/-- LINEAR, rounding half up (R132). -/
def linearOutput (lc : Nat) : Nat := (lc * 255 * 2 + 1000) / 2000

/-- SQUARE, rounding half up (R132). -/
def squareOutput (lc : Nat) : Nat := (lc * lc * 255 * 2 + 1000000) / 2000000

/-- The relay request of a SWITCHED circuit (R133). -/
def switchedRequest (cs : CircuitSettings) (level : Nat) (previous : Bool) : Bool :=
  if cs.onThreshold ≤ level then true
  else if cs.onThreshold < cs.offThreshold then false
  else if level < cs.offThreshold then false
  else previous

/-- The relay request after a tick: OFF, not evaluated, under another law (R118, R133). -/
def requestAt (cs : CircuitSettings) (level : Nat) (previous : Bool) : Bool :=
  match cs.law with
  | .switched => switchedRequest cs level previous
  | .linear | .square => false

/-- The output value (R132, R134). -/
def outputOf (cs : CircuitSettings) (level : Nat) (relay : Bool) : Nat :=
  match cs.law with
  | .linear => linearOutput (clampLevel cs level)
  | .square => squareOutput (clampLevel cs level)
  | .switched => if relay then 255 else 0

/-- Stage 3 of one circuit: the request evaluated and handed to the sequencer, then the output value (R123, R158). -/
def Circuit.convert (locked : Bool) (cs : CircuitSettings) (c : Circuit) : Circuit :=
  let request := requestAt cs c.level c.request
  let relay := c.relay.hand cs locked request
  { c with request := request, relay := relay, output := outputOf cs c.level relay.state }

/-- Stages 2 and 3 of every circuit. -/
def stepCircuits (s : State) : State :=
  changeCircuits (fun cs c => c.fadeStep.convert (mainsLocked s) cs) s

/-! ## The refresh frame (R165, R190) -/

/-- The refresh frame of the output values as they stand (R165, R190). -/
def refreshFrame (s : State) : List Byte :=
  let body := s.frameCount :: s.circuits.items.map fun c => BitVec.ofNat 8 c.output
  0xA5 :: body ++ [checkByte body]

/-- The circuit link starts a refresh frame, and the frame count rises by 1 (R165). -/
def startRefresh (s : State) : State := { s with refresh := some (refreshFrame s), frameCount := s.frameCount + 1 }

/-! ## Time (notes/assumptions/2.md) -/

/-- A running timer's remaining milliseconds, one tick later. -/
def countDown (t : Option Nat) : Option Nat := t.map (· - tickTime)

def Tracker.passTime (t : Tracker) : Tracker := { t with timer := countDown t.timer }

def Framer.passTime : Framer → Framer
  | .idle => .idle
  | .awaitLen gap => .awaitLen (gap - tickTime)
  | .body len bytes gap => .body len bytes (gap - tickTime)

def SilenceTimer.passTime : SilenceTimer → SilenceTimer
  | .stopped => .stopped
  | .running remaining => .running (remaining - tickTime)
  | .expired => .expired

/-- The relay's time since the last change, counted up to the longest dwell. -/
def Relay.passTime (r : Relay) : Relay := { r with elapsed := min Relay.longest (r.elapsed + tickTime) }

/-- 20 ms pass: every running timer counts down and every relay's elapsed time up. No timer ends here: its end is a
command of its own. -/
def passTime (s : State) : State :=
  { s with
    contactTrackers := s.contactTrackers.map Tracker.passTime
    ladderTrackers := s.ladderTrackers.map fun t => t.map Tracker.passTime
    stationTrackers := s.stationTrackers.map fun t => t.map Tracker.passTime
    stations := s.stations.map fun st => { st with overrides := st.overrides.map countDown }
    turn := s.turn.map fun t => { t with window := countDown t.window }
    circuits := s.circuits.map fun c => { c with relay := c.relay.passTime }
    mains := { s.mains with silence := countDown s.mains.silence }
    zones := s.zones.map fun z => { z with timer := countDown z.timer }
    framer := s.framer.passTime
    silence := s.silence.passTime }

/-! ## The tick -/

/-- The three stages of a tick, then the refresh frame (R123, R165). -/
def levelTick (s : State) : State := startRefresh (stepCircuits (stepRamps s))

/-- A tick as a command, which counts the time since the last one too. -/
def runTick (s : State) : State := levelTick (passTime s)

/-- Whether a circuit's fade takes its last step at this tick: it has a record after the ramps' steps, with one step to
go (R121, R123). -/
def fadeEndsAt (c : CircuitId) (s : State) : Bool :=
  match ((stepRamps s).circuits.get c).fade with
  | some f => decide (f.steps ≤ f.count + 1)
  | none => false

/-- TICK (R123). -/
def execTick (s : State) : Host.Outcome State Fault Refusal := event runTick s

/-- FADE_END (R121): the tick at which a circuit's step count reaches N. -/
def execFadeEnd (c : CircuitId) (s : State) : Host.Outcome State Fault Refusal := eventIf (fadeEndsAt c) runTick s

end Sys2Proof.Machine
end

