-- ==== Sys2Proof/Machine/Channels.lean ====
section
/-! DEFINITION. The ladder channels (sections 1.7 and 1.8): windows, the tests made of a sample, fault and recovery. What a
fault's entry hands on is a parameter, since gestures are defined later. -/

namespace Sys2Proof.Machine

/-- The number of the defined window a reading lies in; `none` for an indeterminate reading (R10, R11). -/
def windowOf (ls : LadderSettings) (reading : Nat) : Option Nat :=
  ((ls.windows.indexed.take (ls.buttonCount + 1)).find? fun w =>
    decide (w.2.low ≤ reading) && decide (reading ≤ w.2.high)).map fun w => w.1.val

/-- The source of a channel's button 1 to 6; `none` for decode 0, no button. -/
def ladderSource (ch : ChannelId) (button : Nat) : Option Source :=
  if h : 1 ≤ button ∧ button ≤ 6 then some (.ladder ch ⟨button - 1, by omega⟩) else none

/-- An arrival handed on for a channel's button, if the decode is a button. -/
def forButton (ch : ChannelId) (button : Nat) (f : Source → State → State) (s : State) : State :=
  match ladderSource ch button with
  | some src => f src s
  | none => s

/-- A channel's entry to or departure from FAULT is made known (R18): the LADDER report, and the zone unit told. -/
def ladderMadeKnown (ch : ChannelId) (name : ChannelState) (s : State) : State :=
  reevaluate (s.settings.ladders.get ch).homeZone (raise (.ladder ch name) s)

/-- The candidate run after a sample inside window `w` (R12). -/
def candidateRunAt (l : LadderState) (w : Nat) : Nat := if l.candidate = some w then l.candidateRun + 1 else 1

/-- Whether a sample of a NORMAL channel brings the candidate run to the stability count (R12, R15). -/
def reachesStability (ch : ChannelId) (w : Nat) (s : State) : Bool :=
  decide ((s.settings.ladders.get ch).stability ≤ candidateRunAt (s.ladders.get ch) w)

/-- The indeterminate samples in a row that take a channel to FAULT (R13). -/
def faultRun : Nat := 100

/-- A channel enters FAULT (R13): the synthesized release, handed on as `release` has it, the record cleared, and the fault
made known. -/
def enterFaultBy (release : Source → State → State) (ch : ChannelId) (s : State) : State :=
  let s := forButton ch (s.ladders.get ch).decode release s
  ladderMadeKnown ch .fault (s.setLadder ch { LadderState.off with state := .fault })

/-- The recovery run after a sample of a channel in FAULT (R16). -/
def recoveryRunAt (ch : ChannelId) (reading : Nat) (s : State) : Nat :=
  if windowOf (s.settings.ladders.get ch) reading = some 0 then (s.ladders.get ch).recoveryRun + 1 else 0

/-- A sample of a channel in FAULT (R16). -/
def faultSample (ch : ChannelId) (reading : Nat) (s : State) : State :=
  if (s.settings.ladders.get ch).stability ≤ recoveryRunAt ch reading s then
    ladderMadeKnown ch .normal (s.setLadder ch { LadderState.off with state := .normal })
  else s.setLadder ch { s.ladders.get ch with recoveryRun := recoveryRunAt ch reading s }

/-- Whether a sample of a NORMAL channel with a settled baseline changes the stable decode (R12). -/
def decodeChangesAt (ch : ChannelId) (reading : Nat) (s : State) : Bool :=
  let l := s.ladders.get ch
  match l.state, windowOf (s.settings.ladders.get ch) reading with
  | .normal, some w => reachesStability ch w s && !l.baselinePending && decide (w ≠ l.decode)
  | .normal, none | .inactive, _ | .fault, _ => false

/-- Whether a sample takes the baseline (R15). -/
def takesBaselineAt (ch : ChannelId) (reading : Nat) (s : State) : Bool :=
  let l := s.ladders.get ch
  match l.state, windowOf (s.settings.ladders.get ch) reading with
  | .normal, some w => reachesStability ch w s && l.baselinePending
  | .normal, none | .inactive, _ | .fault, _ => false

/-- Whether a sample takes the channel to FAULT (R13). -/
def entersFaultAt (ch : ChannelId) (reading : Nat) (s : State) : Bool :=
  let l := s.ladders.get ch
  match l.state, windowOf (s.settings.ladders.get ch) reading with
  | .normal, none => decide (faultRun ≤ l.indeterminateRun + 1)
  | .normal, some _ | .inactive, _ | .fault, _ => false

/-- Whether a sample takes the channel out of FAULT (R16). -/
def recoversAt (ch : ChannelId) (reading : Nat) (s : State) : Bool :=
  decide ((s.ladders.get ch).state = .fault)
    && decide ((s.settings.ladders.get ch).stability ≤ recoveryRunAt ch reading s)

/-- The sample of LADDER_FAULT_ENTRY (R13). -/
def execLadderFaultEntryBy (release : Source → State → State) (ch : ChannelId) (reading : Nat) (s : State) :
    Host.Outcome State Fault Refusal :=
  eventIf (entersFaultAt ch reading) (enterFaultBy release ch) s

/-- LADDER_RECOVERY (R16). -/
def execLadderRecovery (ch : ChannelId) (reading : Nat) (s : State) : Host.Outcome State Fault Refusal :=
  eventIf (recoversAt ch reading) (faultSample ch reading) s

end Sys2Proof.Machine
end

