-- ==== Sys2Proof/Machine/Bus.lean ====
section
/-! DEFINITION. The station bus controller (chapter 2): frames, turns, station states, and every outcome of a turn but a key
map's. How a synthesized release is handed on is a parameter, since gestures are defined later. -/

namespace Sys2Proof.Machine

/-! ## Frames of the bus (R189) -/

/-- A station address on the wire. -/
def addressByte (a : StationId) : Byte := BitVec.ofNat 8 (a.val + 1)

/-- The exclusive-or of a list of bytes (R189). -/
def xorBytes (l : List Byte) : Byte := l.foldl (· ^^^ ·) 0

/-- A reply's checksum is right (R189). -/
def busCheckRight (r : BusReply) : Bool := decide (xorBytes (r.address :: r.kind :: r.data ++ [r.check]) = 0)

/-- The key map of a reply that is a good STATE reply to a POLL of station `a` (R25, R189). -/
def goodState (a : StationId) (r : BusReply) : Option (BitVec 8) :=
  if busCheckRight r && decide (r.address = addressByte a) && decide (r.kind = 0x81) then
    match r.data with
    | [m] => some m
    | _ => none
  else none

/-- The type code and button count of a reply that is a good IDENT reply of station `a` (R25, R189). -/
def goodIdent (a : StationId) (r : BusReply) : Option (Byte × Nat) :=
  if busCheckRight r && decide (r.address = addressByte a) && decide (r.kind = 0x82) then
    match r.data with
    | [t, n] => if t ≠ 0 ∧ n.toNat ≤ 8 then some (t, n.toNat) else none
    | _ => none
  else none

/-- Whether a complete reply breaks a success condition of a turn (R25). -/
def badFor (t : Turn) (r : BusReply) : Bool :=
  match t.request with
  | .poll _ => (goodState t.address r).isNone
  | .ident => (goodIdent t.address r).isNone

/-- The code of a pattern (section 2.6). -/
def Pattern.code : Pattern → Nat
  | .off => 0
  | .on => 1
  | .slow => 2
  | .fast => 3
  | .flash3 => 4

/-- The four indicator bytes of a POLL: button 2i-1 in the low four bits of byte i, button 2i in the high four
(R189). -/
def indicatorBytes (p : Table Pattern 8) : List Byte :=
  (List.finRange 4).map fun i =>
    BitVec.ofNat 8 ((p.get ⟨2 * i.val, by omega⟩).code + 16 * (p.get ⟨2 * i.val + 1, by omega⟩).code)

/-- The bytes of a turn's request, from the start character to the check (R189). -/
def Turn.requestBytes (t : Turn) : List Byte :=
  let body := match t.request with
    | .poll p => [addressByte t.address, 0x01] ++ indicatorBytes p
    | .ident => [addressByte t.address, 0x02]
  0x55 :: body ++ [xorBytes body]

/-! ## Turns (R24, R25) -/

/-- Whether a station is in the rotation (R24). -/
def served (s : State) (a : StationId) : Bool :=
  (s.settings.stations.get a).enabled && decide ((s.stations.get a).state ≠ .offline)

/-- The turn of a station as its request is built (R25). -/
def newTurn (s : State) (a : StationId) : Turn :=
  { address := a
    request := if (s.stations.get a).state = .active then .poll (Table.ofFn (buttonPattern s a)) else .ident
    window := none
    deferred := false }

/-- The lowest-addressed station of the rotation (R24). -/
def firstServed (s : State) : Option StationId := (List.finRange 32).find? (served s)

/-- The next station after one just served (R24). -/
def nextServed (a : StationId) (s : State) : Option StationId :=
  match (List.finRange 32).find? (fun b => decide (a < b) && served s b) with
  | some b => some b
  | none => firstServed s

/-- The turn of a chosen station begins; with none the bus is quiet (R24). -/
def beginTurn (a : Option StationId) (s : State) : State := { s with turn := a.map (newTurn s) }

/-- A turn has ended, and the next one begins (R24). -/
def endTurn (t : Turn) (s : State) : State := beginTurn (nextServed t.address s) s

/-! ## Station states -/

/-- The buttons held in a key map, in ascending order. -/
def heldButtons (m : BitVec 8) : List ButtonId := (List.finRange 8).filter fun b => m.getLsbD b.val

/-- The bits of the buttons 1 to `n` (R32). -/
def buttonsUpTo (n : Nat) : BitVec 8 := BitVec.ofNat 8 (2 ^ n - 1)

/-- The synthesized releases of every button held in the last good key map, in ascending order (R29), handed on as `release`
has it. -/
def releaseStationBy (release : Source → State → State) (a : StationId) (s : State) : State :=
  (heldButtons (s.stations.get a).keyMap).foldl (fun s b => release (.station a b) s) s

/-- A station's record is replaced, with a STATION report if its state changes (R39). -/
def enterStation (a : StationId) (st : StationState) (s : State) : State :=
  if (s.stations.get a).state = st.state then s.setStation a st
  else raise (.station a st.state st.reportedType) (s.setStation a st)

/-- The third miss (R28, R29): the held buttons released, the key map emptied, MISSING, and the zone unit told. -/
def goMissingBy (release : Source → State → State) (a : StationId) (s : State) : State :=
  let s := releaseStationBy release a s
  let s := enterStation a { s.stations.get a with keyMap := 0, baselinePending := false, misses := 3, state := .missing } s
  reevaluate (s.settings.stations.get a).homeZone s

/-- The state an accepted write sends a station to (R23). -/
def writtenState (cs : StationSettings) : StationStateName := if cs.enabled then .identifying else .offline

/-- Steps 1, 3 and 4 of R23 for a station whose settings are already stored, or are stored between by `store`: the
releases, the settings, the record cleared, the new state with its report, and the zones told. -/
def restartStationBy (release : Source → State → State) (a : StationId) (store : State → State)
    (concerned : ZoneId → Bool) (s : State) : State :=
  let s := if (s.stations.get a).state = .active then releaseStationBy release a s else s
  let s := store s
  let s := enterStation a
    { s.stations.get a with
      keyMap := 0, baselinePending := false, misses := 0, overrides := Table.replicate 8 none, uncounted := false,
      state := writtenState (s.settings.stations.get a) } s
  reevaluateWhere concerned s

/-- The deferred transition of R23, at the end of the station's turn. -/
def deferredTransitionBy (release : Source → State → State) (a : StationId) (s : State) : State :=
  restartStationBy release a id (fun z => decide (z = (s.settings.stations.get a).homeZone)) s

/-- A station's settings replaced in the live configuration. -/
def storeStation (a : StationId) (cs : StationSettings) (s : State) : State :=
  s.setSettings { s.settings with stations := s.settings.stations.set a cs }

/-- The running record of a station written in its own turn (R23, R40; notes/assumptions/9.md): the transition waits, and a
station moved to another home zone no longer counts toward STATION_MISSING. One switched off does not count while it is off. -/
def writtenInTurn (old cs : StationSettings) (st : StationState) : StationState :=
  { st with uncounted := st.uncounted || decide (cs.homeZone ≠ old.homeZone) }

/-! ## The outcome of a turn -/

/-- A tally raised by one, up to 65,535 (R34). -/
def bumpTally (n : Nat) : Nat := min 65535 (n + 1)

/-- A failed turn's tally (R34): a bad reply, or a no-reply. -/
def countFailure (a : StationId) (bad : Bool) (s : State) : State :=
  let st := s.stations.get a
  s.setStation a (if bad then { st with badReplies := bumpTally st.badReplies }
    else { st with noReplies := bumpTally st.noReplies })

/-- Whether a failed turn brings the miss count to 3 (R28). -/
def thirdMiss (t : Turn) (s : State) : Bool :=
  match t.request with
  | .poll _ => !t.deferred && decide (3 ≤ (s.stations.get t.address).misses + 1)
  | .ident => false

/-- A turn fails (R25, R27, R28, R30, R34). -/
def failTurnBy (release : Source → State → State) (t : Turn) (bad : Bool) (s : State) : State :=
  let s := countFailure t.address bad s
  let s :=
    if t.deferred then deferredTransitionBy release t.address s
    else match t.request with
      | .ident => s
      | .poll _ =>
        if thirdMiss t s then goMissingBy release t.address s
        else s.setStation t.address
          { s.stations.get t.address with misses := (s.stations.get t.address).misses + 1 }
  endTurn t s

/-- The state a successful IDENT turn leads to (R27). -/
def identifiedState (cs : StationSettings) (reported : Byte) : StationStateName :=
  if reported.toNat = cs.expectedType then .active else .mismatch

/-- The record after a successful IDENT turn (R26, R27). -/
def identifiedRecord (cs : StationSettings) (reported : Byte) (buttons : Nat) (st : StationState) : StationState :=
  let st := { st with reportedType := reported, reportedButtons := buttons, state := identifiedState cs reported }
  match st.state with
  | .active => { st with misses := 0, keyMap := 0, baselinePending := true }
  | .offline | .identifying | .mismatch | .missing => st

/-- A good IDENT reply (R26, R27). -/
def identTurnBy (release : Source → State → State) (t : Turn) (reported : Byte) (buttons : Nat) (s : State) : State :=
  let a := t.address
  let cs := s.settings.stations.get a
  let s :=
    if t.deferred then deferredTransitionBy release a s
    else reevaluate cs.homeZone (enterStation a (identifiedRecord cs reported buttons (s.stations.get a)) s)
  endTurn t s

/-! ## What the commands of the bus do -/

/-- The turn whose reply window is open. -/
def openTurn (s : State) : Option Turn := s.turn.filter fun t => t.window.isSome

/-- The reply window, 4 ms (R25). -/
def replyWindow : Nat := 4

/-- REPLY_WINDOW_OPEN (R25). -/
def execReplyWindowOpen (s : State) : Host.Outcome State Fault Refusal :=
  eventIf (fun s => match s.turn with | some t => t.window.isNone | none => false)
    (fun s => { s with turn := s.turn.map fun t => { t with window := some replyWindow } }) s

/-- The good IDENT reply of the open turn, with its turn. -/
def identReplyOf (r : BusReply) (s : State) : Option (Turn × Byte × Nat) :=
  match openTurn s with
  | some t =>
    match t.request with
    | .poll _ => none
    | .ident => (goodIdent t.address r).map fun x => (t, x)
  | none => none

/-- The reply of IDENT_REPLY (R27). -/
def execIdentReplyBy (release : Source → State → State) (r : BusReply) (s : State) : Host.Outcome State Fault Refusal :=
  eventIf (fun s => (identReplyOf r s).isSome)
    (fun s => match identReplyOf r s with | some (t, c, n) => identTurnBy release t c n s | none => s) s

/-- The reply of BAD_REPLY (R25, R34). -/
def execBadReplyBy (release : Source → State → State) (r : BusReply) (s : State) : Host.Outcome State Fault Refusal :=
  eventIf (fun s => match openTurn s with | some t => badFor t r | none => false)
    (fun s => match openTurn s with | some t => failTurnBy release t true s | none => s) s

/-- The end of a window, of REPLY_WINDOW_CLOSE (R25, R34). -/
def execReplyWindowCloseBy (release : Source → State → State) (s : State) : Host.Outcome State Fault Refusal :=
  eventIf (fun s => (openTurn s).isSome)
    (fun s => match openTurn s with | some t => failTurnBy release t false s | none => s) s

/-- The third miss of STATION_GOES_MISSING (R28, R29). -/
def execStationGoesMissingBy (release : Source → State → State) (r : Option BusReply) (s : State) :
    Host.Outcome State Fault Refusal :=
  eventIf
    (fun s => match openTurn s with
      | some t => thirdMiss t s && (match r with | some r => badFor t r | none => true)
      | none => false)
    (fun s => match openTurn s with | some t => failTurnBy release t r.isSome s | none => s) s

/-- FLASH3_OVERRIDE_END (R37). -/
def execFlash3OverrideEnd (a : StationId) (b : ButtonId) (s : State) : Host.Outcome State Fault Refusal :=
  eventIf (fun s => ((s.stations.get a).overrides.get b).isSome)
    (fun s => s.setStation a
      { s.stations.get a with overrides := (s.stations.get a).overrides.set b none }) s

end Sys2Proof.Machine
end

