-- ==== Sys2Proof/Machine/Configuration.lean ====
section
/-! DEFINITION. The configuration requests (R184) that hand nothing to a gesture: what each read returns, and what an accepted
write of a scene, a circuit, a zone, an annunciator or the general settings does. -/

namespace Sys2Proof.Machine

/-! ## Reads of the inputs, the channels, the stations and the bindings -/

/-- GET_INPUT (R184). -/
def carryGetInput (p : List Byte) (s : State) : Answer :=
  if p.length ≠ 1 then refuse .length s
  else match idOf 48 (byteAt p 0) with
    | none => refuse .range s
    | some i => done (inputBytes i (s.settings.inputs.get i)) s

/-- GET_LADDER (R184). -/
def carryGetLadder (p : List Byte) (s : State) : Answer :=
  if p.length ≠ 1 then refuse .length s
  else match idOf 8 (byteAt p 0) with
    | none => refuse .range s
    | some ch => done (ladderBytes ch (s.settings.ladders.get ch)) s

/-- GET_STATION (R184). -/
def carryGetStation (p : List Byte) (s : State) : Answer :=
  if p.length ≠ 1 then refuse .length s
  else match idOf 32 (byteAt p 0) with
    | none => refuse .range s
    | some a => done (stationBytes a (s.settings.stations.get a)) s

/-- GET_BINDING (R60). -/
def carryGetBinding (p : List Byte) (s : State) : Answer :=
  if p.length ≠ 2 then refuse .length s
  else match idOf 512 (wordAt p 0) with
    | none => refuse .range s
    | some b => done (bindingBytes b (s.settings.bindings.get b)) s

/-! ## Scenes (R86) -/

/-- GET_SCENE (R86). -/
def carryGetScene (p : List Byte) (s : State) : Answer :=
  if p.length ≠ 1 then refuse .length s
  else match idOf 96 (byteAt p 0) with
    | none => refuse .range s
    | some sc =>
      done (sceneBytes s.draws sc (s.settings.scenes.get sc) ++ wordOf (poolUsed s)) { s with draws := s.draws + 1 }

/-! ## Circuits (R106, R116 to R118, R163) -/

/-- A circuit's running record under rewritten settings. The order within one write is the model's
(notes/assumptions/19.md): the dwell, then align, then the law. -/
def Circuit.rewrite (old cs : CircuitSettings) (locked : Bool) (c : Circuit) : Circuit :=
  let c := if c.claims = [] ∧ old.rest ≠ cs.rest then c.headFor cs.rest cs.defaultFade else c
  let relay := if old.minimumDwell = cs.minimumDwell then c.relay else c.relay.newDwell cs locked
  let relay := if old.align && !cs.align then relay.cross cs else relay
  match old.law, cs.law with
  | .switched, .linear | .switched, .square => { c with request := false, relay := relay.hand cs locked false }
  | .linear, .switched | .square, .switched => { c with request := false, relay := relay }
  | .switched, .switched | .linear, .linear | .linear, .square | .square, .linear | .square, .square =>
    { c with relay := relay }

/-- An accepted PUT_CIRCUIT (R117). -/
def writeCircuit (c : CircuitId) (cs : CircuitSettings) (s : State) : State :=
  let old := s.settings.circuits.get c
  (s.setSettings { s.settings with circuits := s.settings.circuits.set c cs }).setCircuit c
    ((s.circuits.get c).rewrite old cs (mainsLocked s))

/-- PUT_CIRCUIT (R116). -/
def carryPutCircuit (p : List Byte) (s : State) : Answer :=
  if p.length ≠ 16 then refuse .length s
  else if s.saving then refuse .busy s
  else match circuitOf p with
    | none => refuse .range s
    | some (c, cs) => done [] (writeCircuit c cs s)

/-- GET_CIRCUIT (R184). -/
def carryGetCircuit (p : List Byte) (s : State) : Answer :=
  if p.length ≠ 1 then refuse .length s
  else match idOf 128 (byteAt p 0) with
    | none => refuse .range s
    | some c => done (circuitBytes c (s.settings.circuits.get c)) s

/-! ## Zones (R140, R141) -/

/-- An accepted PUT_ZONE (R141): the settings stored, the zone re-evaluated under its new mask. -/
def writeZone (z : ZoneId) (zs : ZoneSettings) (s : State) : State :=
  reevaluate z (s.setSettings { s.settings with zones := s.settings.zones.set z zs })

/-- PUT_ZONE (R140). -/
def carryPutZone (p : List Byte) (s : State) : Answer :=
  if p.length ≠ 20 then refuse .length s
  else if s.saving then refuse .busy s
  else match zoneOf p with
    | none => refuse .range s
    | some (z, zs) => done [] (writeZone z zs s)

/-- GET_ZONE (R140). -/
def carryGetZone (p : List Byte) (s : State) : Answer :=
  if p.length ≠ 1 then refuse .length s
  else match idOf 16 (byteAt p 0) with
    | none => refuse .range s
    | some z => done (zoneBytes s.draws z (s.settings.zones.get z)) { s with draws := s.draws + 1 }

/-! ## Annunciators (R152) -/

/-- An accepted PUT_ANNUNCIATOR (R152): the output follows at once, since it is worked out from the settings (R154). -/
def writeAnnunciator (a : AnnunciatorId) (f : AnnunciatorFunction) (s : State) : State :=
  s.setSettings { s.settings with annunciators := s.settings.annunciators.set a f }

/-- PUT_ANNUNCIATOR (R152). -/
def carryPutAnnunciator (p : List Byte) (s : State) : Answer :=
  if p.length ≠ 3 then refuse .length s
  else if s.saving then refuse .busy s
  else match annunciatorOf p with
    | none => refuse .range s
    | some (a, f) => done [] (writeAnnunciator a f s)

/-- GET_ANNUNCIATOR (R152). -/
def carryGetAnnunciator (p : List Byte) (s : State) : Answer :=
  if p.length ≠ 1 then refuse .length s
  else match idOf 8 (byteAt p 0) with
    | none => refuse .range s
    | some a => done (annunciatorBytes a (s.settings.annunciators.get a)) s

/-! ## General settings (R169, R175, R185) -/

/-- A write that changes the nominal frequency (R169). -/
def renominate (s : State) : State :=
  changeMains { s.mains with state := .acquiring, lockCount := 0, previous := none, silence := some mainsSilence } s

/-- An accepted PUT_GENERAL (R185): the record is stored, then the tracker and the silence timer are acted on. Where the timer has
expired again while the request waited in the queue, its restart with another timeout makes LINK_SILENT inactive and the zone unit
is told: R174 and R175 leave that open (DESIGN CHOICE, notes/assumptions/29.md). -/
def writeGeneral (g : GeneralSettings) (s : State) : State :=
  let old := s.settings.general
  let s := s.setSettings { s.settings with general := g }
  let s := if old.nominal = g.nominal then s else renominate s
  if old.silenceTimeout = g.silenceTimeout then s else setSilence (silenceStart g.silenceTimeout) s

/-- PUT_GENERAL (R185). -/
def carryPutGeneral (p : List Byte) (s : State) : Answer :=
  if p.length ≠ 5 then refuse .length s
  else if s.saving then refuse .busy s
  else match generalOf p with
    | none => refuse .range s
    | some g => done [] (writeGeneral g s)

/-- GET_GENERAL (R184). -/
def carryGetGeneral (p : List Byte) (s : State) : Answer :=
  if p.length ≠ 0 then refuse .length s else done (generalBytes s.settings.general) s

/-! ## The commands -/

def execGetInput (p : List Byte) (s : State) : Host.Outcome State Fault Refusal := request 0x40 carryGetInput p s
def execGetLadder (p : List Byte) (s : State) : Host.Outcome State Fault Refusal := request 0x41 carryGetLadder p s
def execGetStation (p : List Byte) (s : State) : Host.Outcome State Fault Refusal := request 0x42 carryGetStation p s
def execGetBinding (p : List Byte) (s : State) : Host.Outcome State Fault Refusal := request 0x43 carryGetBinding p s
def execGetScene (p : List Byte) (s : State) : Host.Outcome State Fault Refusal := request 0x44 carryGetScene p s
def execPutCircuit (p : List Byte) (s : State) : Host.Outcome State Fault Refusal := request 0x35 carryPutCircuit p s
def execGetCircuit (p : List Byte) (s : State) : Host.Outcome State Fault Refusal := request 0x45 carryGetCircuit p s
def execPutZone (p : List Byte) (s : State) : Host.Outcome State Fault Refusal := request 0x36 carryPutZone p s
def execGetZone (p : List Byte) (s : State) : Host.Outcome State Fault Refusal := request 0x46 carryGetZone p s
def execPutAnnunciator (p : List Byte) (s : State) : Host.Outcome State Fault Refusal :=
  request 0x37 carryPutAnnunciator p s
def execGetAnnunciator (p : List Byte) (s : State) : Host.Outcome State Fault Refusal :=
  request 0x47 carryGetAnnunciator p s
def execPutGeneral (p : List Byte) (s : State) : Host.Outcome State Fault Refusal := request 0x38 carryPutGeneral p s
def execGetGeneral (p : List Byte) (s : State) : Host.Outcome State Fault Refusal := request 0x48 carryGetGeneral p s

end Sys2Proof.Machine
end

