-- ==== Sys2Proof/Machine/Between.lean ====
section
/-! DEFINITION. What may come between two bindings of one dispatch (R64, R85, R107, R148): the requests, the ticks and the events
that hand nothing to a gesture, each taken as its own command takes it. -/

namespace Sys2Proof.Machine

/-! ## What holds a command back until the dispatch has ended (notes/assumptions/28.md) -/

/-- A button of a station. -/
def ofStation : Source → Bool
  | .station _ _ => true
  | .contact _ | .ladder _ _ => false

/-- A button of a ladder channel. -/
def ofLadder : Source → Bool
  | .ladder _ _ => true
  | .contact _ | .station _ _ => false

/-- A command that waits for the end of the dispatch changes nothing in it. -/
def waits (s : State) : Host.Outcome State Fault Refusal := .next s

/-- A command that comes only where a condition holds. -/
def comesIf (p : State → Bool) (f : State → Host.Outcome State Fault Refusal) (s : State) :
    Host.Outcome State Fault Refusal := if p s then f s else waits s

/-- No other request is being carried out (R176). -/
def linkFree (s : State) : Bool := !s.carrying

/-- The dispatch is not of the bus's own making: its controller is not inside a turn's end or a write of a station. -/
def busFree (src : Source) (_ : State) : Bool := !ofStation src

/-- No channel's sample and no write of an input or a channel is being carried out. -/
def samplerFree (src : Source) (s : State) : Bool := !ofLadder src && linkFree s

/-- No button of the station in turn has a gesture whose release would wait for the dispatch's end (R63). -/
def turnAtRest (s : State) : Bool :=
  match s.turn with
  | some t => (s.stationTrackers.get t.address).items.all fun v => decide (v.state = .idle)
  | none => true

/-- No button of a channel has such a gesture. -/
def channelAtRest (ch : ChannelId) (s : State) : Bool :=
  (s.ladderTrackers.get ch).items.all fun v => decide (v.state = .idle)

/-- The synthesized release of a source at rest: nothing (R50). -/
def releaseNothing (_ : Source) (s : State) : State := s

/-! ## The commands that come -/

/-- What each command does where it comes between two bindings of a dispatch of source `src`. A request is taken as R176 has it,
and a timer's end, a crossing, a character, a frame sent, a save's end, a turn's end and a channel's fault as their commands have
them; a tick steps the levels and sends its frame, and counts no time. A PUT_BINDING and a RESTART wait for the end (R62), and so
does whatever hands an arrival to a tracker (R63); the rest that waits is the model's choice (notes/assumptions/28.md). -/
def execBetween (src : Source) (c : Instr) (s : State) : Host.Outcome State Fault Refusal :=
  match c with
  | .hello p => comesIf linkFree (execHello p) s
  | .status p => comesIf linkFree (execStatus p) s
  | .cause p => comesIf linkFree (execCause p) s
  | .save p => comesIf linkFree (execSave p) s
  | .setFlags p => comesIf linkFree (execSetFlags p) s
  | .force p => comesIf linkFree (execForce p) s
  | .release p => comesIf linkFree (execRelease p) s
  | .setAnnunciator p => comesIf linkFree (execSetAnnunciator p) s
  | .recallRequest p => comesIf linkFree (execRecall p) s
  | .drop p => comesIf linkFree (execDrop p) s
  | .levelRequest p => comesIf linkFree (execLevelRequest p) s
  | .clear p => comesIf linkFree (execClear p) s
  | .dropRestart p => comesIf linkFree (execDropRestart p) s
  | .queryCircuit p => comesIf linkFree (execQueryCircuit p) s
  | .queryScene p => comesIf linkFree (execQueryScene p) s
  | .queryZone p => comesIf linkFree (execQueryZone p) s
  | .queryStation p => comesIf (fun s => linkFree s && busFree src s) (execQueryStation p) s
  | .queryInputs p => comesIf linkFree (execQueryInputs p) s
  | .putScene p => comesIf linkFree (execPutScene p) s
  | .putCircuit p => comesIf linkFree (execPutCircuit p) s
  | .putZone p => comesIf linkFree (execPutZone p) s
  | .putAnnunciator p => comesIf linkFree (execPutAnnunciator p) s
  | .putGeneral p => comesIf linkFree (execPutGeneral p) s
  | .getInput p => comesIf linkFree (execGetInput p) s
  | .getLadder p => comesIf linkFree (execGetLadder p) s
  | .getStation p => comesIf linkFree (execGetStation p) s
  | .getBinding p => comesIf linkFree (execGetBinding p) s
  | .getScene p => comesIf linkFree (execGetScene p) s
  | .getCircuit p => comesIf linkFree (execGetCircuit p) s
  | .getZone p => comesIf linkFree (execGetZone p) s
  | .getAnnunciator p => comesIf linkFree (execGetAnnunciator p) s
  | .getGeneral p => comesIf linkFree (execGetGeneral p) s
  | .damagedEntry => comesIf linkFree execDamagedEntry s
  | .unknownKind k p => comesIf linkFree (execUnknownKind k p) s
  | .tick => event levelTick s
  | .fadeEnd n => eventIf (fadeEndsAt n) levelTick s
  | .dwellEnd n => execDwellEnd n s
  | .zeroCrossing m => execZeroCrossing m s
  | .mainsLock m => execMainsLock m s
  | .mainsSilenceExpiry => execMainsSilenceExpiry s
  | .releaseTimerExpiry z => execReleaseTimerExpiry z s
  | .characterReceived b e => execCharacterReceived b e s
  | .gapTimerExpiry => execGapTimerExpiry s
  | .silenceTimerExpiry => execSilenceTimerExpiry s
  | .transmitFrameEnd => execTransmitFrameEnd s
  | .saveEnd v => execSaveEnd v s
  | .replyWindowOpen => comesIf (busFree src) execReplyWindowOpen s
  | .flash3OverrideEnd a b => comesIf (busFree src) (execFlash3OverrideEnd a b) s
  | .identReply r => comesIf (fun s => busFree src s && turnAtRest s) (execIdentReplyBy releaseNothing r) s
  | .badReply r => comesIf (fun s => busFree src s && turnAtRest s) (execBadReplyBy releaseNothing r) s
  | .replyWindowClose => comesIf (fun s => busFree src s && turnAtRest s) (execReplyWindowCloseBy releaseNothing) s
  | .stationGoesMissing r =>
    comesIf (fun s => busFree src s && turnAtRest s) (execStationGoesMissingBy releaseNothing r) s
  | .ladderFaultEntry ch n =>
    comesIf (fun s => samplerFree src s && channelAtRest ch s) (execLadderFaultEntryBy releaseNothing ch n) s
  | .ladderRecovery ch n => comesIf (samplerFree src) (execLadderRecovery ch n) s
  | .putBinding _ | .restart _ => waits s
  | .putInput _ | .putLadder _ | .putStation _ => waits s
  | .contactSample _ _ | .changeAccepted _ _ | .settlingComplete _ _ | .ladderSample _ _ | .ladderDecodeChange _ _
  | .ladderBaseline _ _ | .stateReply _ | .holdTimerExpiry _ => waits s
  | .powerOn | .resetLine | .resetInputAsserted | .lossOfSupply => waits s

/-- The state after a command that came; no command stops the part. -/
def comes (src : Source) (s : State) (c : Instr) : State :=
  match execBetween src c s with
  | .next t => t
  | .fault _ => s
  | .refused _ => s

/-- Before the first command comes: where none of the waiting reports is of the request in hand, every report may start (R180). -/
def freeReports (s : State) : State := if s.ahead = some s.reports.length then { s with ahead := none } else s

/-- After the last command that comes: the reports that the request in hand goes on to raise stand behind those that wait now, and
none of them starts before its reply (R179). -/
def holdReports (s : State) : State :=
  if s.carrying ∧ s.ahead = none then { s with ahead := some s.reports.length } else s

/-- All that comes before a later binding of a dispatch is reached: a free value says which commands, in order (R64, R107,
R148; notes/assumptions/28.md). -/
def betweenBindings (src : Source) (s : State) : State :=
  holdReports ((Config.comesBetween s.draws).foldl (comes src) (freeReports { s with draws := s.draws + 1 }))

end Sys2Proof.Machine
end

