-- ==== Sys2Proof/Machine/Bindings.lean ====
section
/-! DEFINITION. The binding dispatcher (chapter 4): matching, suppression, the actions, the outcome. -/

namespace Sys2Proof.Machine

/-- The ramp a RAISE or LOWER of slot `b` asks for (R74, R125). -/
def rampOf (b : SlotId) (x : Binding) (scene : SceneId) (direction : Direction) (s : State) : Ramp :=
  { binding := b, scene := scene, cls := x.cls, zone := x.zone, direction := direction,
    rate := (s.settings.zones.get x.zone).raiseRate, accumulator := 0 }

/-- SCENE_ON (R69). -/
def actSceneOn (x : Binding) (sc : SceneId) (fade : Option Nat) (s : State) : State :=
  placeScene sc x.cls.claim (some x.zone) fade s

/-- SCENE_OFF (R70). -/
def actSceneOff (x : Binding) (sc : SceneId) (fade : Option Nat) (s : State) : State :=
  withdrawScene sc x.cls.claim fade s

/-- SCENE_TOGGLE (R71). -/
def actSceneToggle (x : Binding) (sc : SceneId) (fade : Option Nat) (s : State) : State :=
  if sceneHeld sc x.cls.claim s then actSceneOff x sc fade s else actSceneOn x sc fade s

/-- LEVEL (R72). -/
def actLevel (x : Binding) (c : CircuitId) (level : Nat) (fade : Option Nat) (s : State) : State :=
  place c { owner := .source x.source, cls := x.cls.claim, level := level, zone := some x.zone }
    (fade.getD (s.settings.circuits.get c).defaultFade) s

/-- LEVEL_OFF (R73). -/
def actLevelOff (x : Binding) (c : CircuitId) (fade : Option Nat) (s : State) : State :=
  withdraw c { owner := .source x.source, cls := x.cls.claim } (fade.getD (s.settings.circuits.get c).defaultFade) s

/-- RAISE (R74). -/
def actRaise (b : SlotId) (x : Binding) (sc : SceneId) (s : State) : State :=
  requestRamp (rampOf b x sc .up s) (placeMissing sc x.cls.claim x.zone s)

/-- LOWER (R74). -/
def actLower (b : SlotId) (x : Binding) (sc : SceneId) (s : State) : State := requestRamp (rampOf b x sc .down s) s

/-- The action of a binding that runs, in slot `b` (R69 to R79). -/
def runAction (b : SlotId) (x : Binding) (s : State) : State :=
  match x.action with
  | .sceneOn sc fade => actSceneOn x sc fade s
  | .sceneOff sc fade => actSceneOff x sc fade s
  | .sceneToggle sc fade => actSceneToggle x sc fade s
  | .level c level fade => actLevel x c level fade s
  | .levelOff c fade => actLevelOff x c fade s
  | .raise sc => actRaise b x sc s
  | .lower sc => actLower b x sc s
  | .zoneClear z fade => clearZone z fade s
  | .flagSet f => changeFlags (withFlag s.flags f true) s
  | .flagClear f => changeFlags (withFlag s.flags f false) s
  | .flagToggle f => changeFlags (withFlag s.flags f (!s.flags.getLsbD f.val)) s
  | .holdForce z => forceZone z s
  | .holdRelease z => releaseZone z s
  | .reportOnly => s

/-- The matching bindings of a trigger, in ascending slot order (R63). -/
def matching (src : Source) (t : Trigger) (s : State) : List (SlotId × Binding) :=
  s.settings.bindings.indexed.filterMap fun bx =>
    match bx.2 with
    | some x => if x.enabled && decide (x.source = src) && decide (x.trigger = t) then some (bx.1, x) else none
    | none => none

/-- Whether a binding is suppressed when the dispatcher reaches it (R64). -/
def suppressed (suppression : List ZoneId) (x : Binding) (s : State) : Bool :=
  decide (x.cls = .loc) && (decide (x.zone ∈ suppression) || decide ((s.zones.get x.zone).state ≠ .free))

/-- A dispatch in progress: the state, whether some binding ran, whether some binding was suppressed. -/
structure Dispatching where
  state : State
  ran : Bool
  held : Bool

/-- One matching binding is reached (R63, R65). -/
def reachBinding (suppression : List ZoneId) (d : Dispatching) (bx : SlotId × Binding) : Dispatching :=
  if suppressed suppression bx.2 d.state then { d with held := true }
  else { d with state := runAction bx.1 bx.2 d.state, ran := true }

/-- A later matching binding is reached, after what comes before it, which it sees (R64, R85, R107, R148). -/
def reachLater (gap : State → State) (suppression : List ZoneId) (d : Dispatching) (bx : SlotId × Binding) : Dispatching :=
  reachBinding suppression { d with state := gap d.state } bx

/-- The matching bindings are reached in order (R63): nothing comes before the first, nor after the last. -/
def reachBindings (gap : State → State) (suppression : List ZoneId) (l : List (SlotId × Binding)) (d : Dispatching) :
    Dispatching :=
  match l with
  | [] => d
  | bx :: rest => rest.foldl (reachLater gap suppression) (reachBinding suppression d bx)

/-- The outcome of a trigger (R67). -/
def outcomeOf (ran held : Bool) : DispatchOutcome :=
  match ran, held with
  | false, false => .none
  | true, false => .run
  | false, true => .suppressed
  | true, true => .mixed

/-- The report setting of a source (R67). -/
def reportsEvents (s : State) : Source → Bool
  | .contact i => (s.settings.inputs.get i).report
  | .ladder ch _ => (s.settings.ladders.get ch).report
  | .station a _ => (s.settings.stations.get a).report

/-- A FLASH3 override's length, 1.5 s, in milliseconds (R37). -/
def flashTime : Nat := 1500

/-- The FLASH3 override of a station source whose dispatch ended SUPPRESSED or MIXED (R37, R68). -/
def startOverride (src : Source) (held : Bool) (s : State) : State :=
  match src, held with
  | .station a b, true =>
    let st := s.stations.get a
    s.setStation a { st with overrides := st.overrides.set b (some flashTime) }
  | .station _ _, false | .contact _, _ | .ladder _ _, _ => s

/-- The source of a ramp's binding, as the table holds it (R66). -/
def rampSource (s : State) (r : Ramp) : Option Source := (s.settings.bindings.get r.binding).map (·.source)

/-- A RELEASE trigger ends the ramps of its source (R66). -/
def releaseRamps (src : Source) (t : Trigger) (s : State) : State :=
  match t with
  | .release => endRamps (fun r => decide (rampSource s r = some src)) s
  | .press | .hold | .tap | .holdRelease => s

/-- The dispatch of one trigger, whole (R63 to R68), with what `gap` makes of the state between two of its bindings. -/
def dispatchWith (gap : State → State) (src : Source) (t : Trigger) (suppression : List ZoneId) (s : State) : State :=
  let s := releaseRamps src t s
  let d := reachBindings gap suppression (matching src t s) { state := s, ran := false, held := false }
  let s := if reportsEvents d.state src then raise (.event src t (outcomeOf d.ran d.held)) d.state else d.state
  startOverride src d.held s

/-- The dispatch of one trigger. It is part of one step; what comes between two of its bindings is a free value
(notes/assumptions/28.md). -/
def dispatch (src : Source) (t : Trigger) (suppression : List ZoneId) (s : State) : State :=
  dispatchWith (betweenBindings src) src t suppression s

end Sys2Proof.Machine
end

