-- ==== Sys2Proof/Machine/Gestures.lean ====
section
/-! DEFINITION. The gesture unit (chapter 3): what each arrival does to a source's tracker, and the hold timer. -/

namespace Sys2Proof.Machine

/-- The kind of a source's gestures (R44). -/
def kindOf (s : State) : Source → GestureKind
  | .contact i => (s.settings.inputs.get i).kind
  | .ladder _ _ | .station _ _ => .momentary

/-- The hold time of a source, in tenths of a second (R44). -/
def holdTimeOf (s : State) : Source → Nat
  | .contact i => (s.settings.inputs.get i).holdTime
  | .ladder ch _ => (s.settings.ladders.get ch).holdTime
  | .station a _ => (s.settings.stations.get a).holdTime

/-- The record of a gesture just started (R45): the suppression set captured, the kind and hold time recorded, the hold
timer started for a MOMENTARY gesture. -/
def pressedTracker (s : State) (src : Source) : Tracker :=
  { state := .down
    kind := some (kindOf s src)
    timer := match kindOf s src with
      | .momentary => some (holdTimeOf s src * 100)
      | .maintained => none
    holdTime := some (holdTimeOf s src)
    suppression := heldZones s }

/-- A press starts a gesture (R45). -/
def startGesture (src : Source) (s : State) : State :=
  let t := pressedTracker s src
  dispatch src .press t.suppression (s.setTracker src t)

/-- A press reaches a tracker (R45, R50). -/
def press (src : Source) (s : State) : State :=
  match (s.tracker src).state with
  | .idle | .latent => startGesture src s
  | .down | .held => s

/-- The triggers of an ordinary release, in order (R47, R48). -/
def releaseTriggers (t : Tracker) : List Trigger :=
  match t.state, t.kind with
  | .down, some .maintained => [.release]
  | .down, _ => [.release, .tap]
  | .held, _ => [.release, .holdRelease]
  | .latent, _ => [.release]
  | .idle, _ => []

/-- The triggers of a synthesized release, in order (R49). -/
def synthesizedTriggers (t : Tracker) : List Trigger :=
  match t.state with
  | .down => [.release]
  | .held => [.release, .holdRelease]
  | .latent | .idle => []

/-- A gesture ends (R47 to R49): a running hold timer is stopped, the triggers are dispatched in order with the gesture's
suppression set, and the tracker returns to IDLE. -/
def endGesture (src : Source) (triggers : List Trigger) (s : State) : State :=
  let t := s.tracker src
  let s := s.setTracker src { t with timer := none }
  let s := triggers.foldl (fun s trg => dispatch src trg t.suppression s) s
  s.setTracker src Tracker.idle

/-- A release reaches a tracker (R47, R48, R50). -/
def release (src : Source) (s : State) : State :=
  match (s.tracker src).state with
  | .idle => s
  | .down | .held | .latent => endGesture src (releaseTriggers (s.tracker src)) s

/-- A synthesized release reaches a tracker (R49). -/
def synthesizedRelease (src : Source) (s : State) : State :=
  match (s.tracker src).state with
  | .idle => s
  | .down | .held | .latent => endGesture src (synthesizedTriggers (s.tracker src)) s

/-- A baseline reaches a tracker (R48, R50). -/
def baseline (src : Source) (s : State) : State :=
  match (s.tracker src).state with
  | .idle => s.setTracker src Tracker.latent
  | .down | .held | .latent => s

/-- The hold timer of a tracker in DOWN expires: HELD, then HOLD (R46). -/
def expireHold (src : Source) (s : State) : State :=
  let t := s.tracker src
  dispatch src .hold t.suppression (s.setTracker src { t with state := .held, timer := none })

/-- HOLD_TIMER_EXPIRY (R46): only a tracker in DOWN whose timer runs. -/
def execHoldTimerExpiry (src : Source) (s : State) : Host.Outcome State Fault Refusal :=
  eventIf (fun s => decide ((s.tracker src).state = .down) && (s.tracker src).timer.isSome) (expireHold src) s

end Sys2Proof.Machine
end

