-- ==== Sys2Proof/Machine/Contacts.lean ====
section
/-! DEFINITION. The contact inputs (sections 1.2 to 1.4): sampling, filtering, settling. -/

namespace Sys2Proof.Machine

/-- The samples a change or a settling run must stand for: the noise width in milliseconds, one with width OFF (R2,
R6). -/
def NoiseWidth.samples : NoiseWidth → Nat
  | .off => 1
  | .ms2 => 2
  | .ms8 => 8
  | .ms32 => 32

/-- The press level of a sense (R3). -/
def Sense.pressLevel : Sense → Contact
  | .closedIsPress => .closed
  | .openIsPress => .opened

/-- The count of a settling run after one more sample (R6). -/
def settlingCount (run : Option (Contact × Nat)) (raw : Contact) : Nat :=
  match run with
  | some (level, n) => if level = raw then n + 1 else 1
  | none => 1

/-- The count of a pending change after one more differing sample (R2). -/
def pendingCount (p : Option Nat) : Nat := p.getD 0 + 1

/-- Whether a sample completes a settling run (R6). -/
def settlesAt (i : InputId) (raw : Contact) (s : State) : Bool :=
  let cs := s.settings.inputs.get i
  match cs.function, (s.inputs.get i).conditioning with
  | .contact, .settling run _ => decide (cs.noise.samples ≤ settlingCount run raw)
  | .contact, .running | .contact, .stopped | .ladder, _ => false

/-- Whether a pending change is accepted at a sample (R2). -/
def acceptsAt (i : InputId) (raw : Contact) (s : State) : Bool :=
  let cs := s.settings.inputs.get i
  let st := s.inputs.get i
  match cs.function, st.conditioning with
  | .contact, .running => decide (raw ≠ st.filtered) && decide (cs.noise.samples ≤ pendingCount st.pending)
  | .contact, .settling _ _ | .contact, .stopped | .ladder, _ => false

/-- A change is accepted (R2, R3): the filtered level takes the new value, and a participating input hands on a press or a
release. -/
def acceptChange (i : InputId) (raw : Contact) (s : State) : State :=
  let cs := s.settings.inputs.get i
  let s := s.setInput i { s.inputs.get i with filtered := raw, pending := none }
  if cs.participate then
    if raw = cs.sense.pressLevel then press (.contact i) s else release (.contact i) s
  else s

/-- What a settled input hands on (R6, R7, R21), with assert-at-start as the start read it (R9). -/
def handSettled (i : InputId) (raw : Contact) (asserts : Bool) (s : State) : State :=
  let cs := s.settings.inputs.get i
  if cs.participate && decide (raw = cs.sense.pressLevel) then
    if asserts then press (.contact i) s else baseline (.contact i) s
  else s

/-- A settling run is complete (R6). -/
def settle (i : InputId) (raw : Contact) (asserts : Bool) (s : State) : State :=
  handSettled i raw asserts (s.setInput i { filtered := raw, pending := none, conditioning := .running })

/-- One sample of a contact input (R2, R6). -/
def sampleContact (i : InputId) (raw : Contact) (s : State) : State :=
  let st := s.inputs.get i
  match (s.settings.inputs.get i).function, st.conditioning with
  | .ladder, _ | .contact, .stopped => s
  | .contact, .settling run asserts =>
    if settlesAt i raw s then settle i raw asserts s
    else s.setInput i { st with conditioning := .settling (some (raw, settlingCount run raw)) asserts }
  | .contact, .running =>
    if raw = st.filtered then s.setInput i { st with pending := none }
    else if acceptsAt i raw s then acceptChange i raw s
    else s.setInput i { st with pending := some (pendingCount st.pending) }

/-- CONTACT_SAMPLE (R2, R6). -/
def execContactSample (i : InputId) (raw : Contact) (s : State) : Host.Outcome State Fault Refusal :=
  event (sampleContact i raw) s

/-- CHANGE_ACCEPTED (R2, R3): the sample at which a pending change reaches the noise width. -/
def execChangeAccepted (i : InputId) (raw : Contact) (s : State) : Host.Outcome State Fault Refusal :=
  eventIf (acceptsAt i raw) (sampleContact i raw) s

/-- SETTLING_COMPLETE (R6): the sample at which a settling run reaches the noise width. -/
def execSettlingComplete (i : InputId) (raw : Contact) (s : State) : Host.Outcome State Fault Refusal :=
  eventIf (settlesAt i raw) (sampleContact i raw) s

end Sys2Proof.Machine
end

