-- ==== Sys2Proof/Machine/Ladders.lean ====
section
/-! DEFINITION. The samples of the ladder channels (sections 1.7 and 1.8): decoding, baseline, fault. -/

namespace Sys2Proof.Machine

/-- The stable decode changes: a release of the old button, then a press of the new one (R12). -/
def changeDecode (ch : ChannelId) (old new : Nat) (s : State) : State :=
  forButton ch new press (forButton ch old release s)

/-- A sample inside defined window `w` of a NORMAL channel (R12, R15). -/
def windowSample (ch : ChannelId) (w : Nat) (s : State) : State :=
  let l := s.ladders.get ch
  let l' := { l with candidate := some w, candidateRun := candidateRunAt l w, indeterminateRun := 0 }
  if reachesStability ch w s then
    if l.baselinePending then
      forButton ch w baseline (s.setLadder ch { l' with decode := w, baselinePending := false })
    else if w = l.decode then s.setLadder ch l'
    else changeDecode ch l.decode w (s.setLadder ch { l' with decode := w })
  else s.setLadder ch l'

/-- A channel enters FAULT (R13). -/
def enterFault (ch : ChannelId) (s : State) : State := enterFaultBy synthesizedRelease ch s

/-- An indeterminate sample of a NORMAL channel (R13). -/
def indeterminateSample (ch : ChannelId) (s : State) : State :=
  let l := s.ladders.get ch
  if faultRun ≤ l.indeterminateRun + 1 then enterFault ch s
  else s.setLadder ch { l with candidate := none, candidateRun := 0, indeterminateRun := l.indeterminateRun + 1 }

/-- One sample of a ladder channel (R12, R13, R15, R16). -/
def sampleLadder (ch : ChannelId) (reading : Nat) (s : State) : State :=
  match (s.ladders.get ch).state with
  | .inactive => s
  | .normal =>
    match windowOf (s.settings.ladders.get ch) reading with
    | some w => windowSample ch w s
    | none => indeterminateSample ch s
  | .fault => faultSample ch reading s

/-- LADDER_SAMPLE (R12, R13, R15, R16). -/
def execLadderSample (ch : ChannelId) (reading : Nat) (s : State) : Host.Outcome State Fault Refusal :=
  event (sampleLadder ch reading) s

/-- LADDER_DECODE_CHANGE (R12). -/
def execLadderDecodeChange (ch : ChannelId) (reading : Nat) (s : State) : Host.Outcome State Fault Refusal :=
  eventIf (decodeChangesAt ch reading) (sampleLadder ch reading) s

/-- LADDER_BASELINE (R15). -/
def execLadderBaseline (ch : ChannelId) (reading : Nat) (s : State) : Host.Outcome State Fault Refusal :=
  eventIf (takesBaselineAt ch reading) (sampleLadder ch reading) s

/-- LADDER_FAULT_ENTRY (R13). -/
def execLadderFaultEntry (ch : ChannelId) (reading : Nat) (s : State) : Host.Outcome State Fault Refusal :=
  execLadderFaultEntryBy synthesizedRelease ch reading s

end Sys2Proof.Machine
end

