-- ==== Sys2Proof/Machine/Stations.lean ====
section
/-! DEFINITION. What the station bus hands to the gestures (chapter 2): key maps, synthesized releases, and the writes and the
turns that make them. -/

namespace Sys2Proof.Machine

/-! ## Synthesized releases -/

/-- The synthesized releases of every button held in the last good key map, in ascending order (R29). -/
def releaseStation (a : StationId) (s : State) : State := releaseStationBy synthesizedRelease a s

/-- The third miss (R28, R29). -/
def goMissing (a : StationId) (s : State) : State := goMissingBy synthesizedRelease a s

/-- Steps 1, 3 and 4 of R23. -/
def restartStation (a : StationId) (store : State → State) (concerned : ZoneId → Bool) (s : State) : State :=
  restartStationBy synthesizedRelease a store concerned s

/-- The deferred transition of R23, at the end of the station's turn. -/
def deferredTransition (a : StationId) (s : State) : State := deferredTransitionBy synthesizedRelease a s

/-! ## Writes -/

/-- An accepted PUT_STATION (R23, R24, R40). In the station's own turn the settings are stored at once and the transition
waits for the turn's end; otherwise everything takes place at once, and on a quiet bus a station so enabled begins its
turn. -/
def writeStation (a : StationId) (cs : StationSettings) (s : State) : State :=
  let old := s.settings.stations.get a
  let concerned : ZoneId → Bool := fun z => decide (z = old.homeZone) || decide (z = cs.homeZone)
  match s.turn with
  | some t =>
    if t.address = a then
      reevaluateWhere concerned
        { (storeStation a cs s).setStation a (writtenInTurn old cs (s.stations.get a)) with
          turn := some { t with deferred := true } }
    else restartStation a (storeStation a cs) concerned s
  | none =>
    let s := restartStation a (storeStation a cs) concerned s
    if cs.enabled then beginTurn (some a) s else s

/-! ## Key maps -/

/-- The first good key map is a baseline (R31). -/
def baselineMap (a : StationId) (m : BitVec 8) (s : State) : State :=
  let s := s.setStation a { s.stations.get a with misses := 0, baselinePending := false, keyMap := m }
  (heldButtons m).foldl (fun s b => baseline (.station a b) s) s

/-- The event of one button in a comparison of key maps (R32). -/
def compareButton (a : StationId) (old new : BitVec 8) (s : State) (b : ButtonId) : State :=
  if old.getLsbD b.val = new.getLsbD b.val then s
  else if new.getLsbD b.val then press (.station a b) s
  else release (.station a b) s

/-- A good key map is compared with the last one, button by button up to the reported count (R32). -/
def compareMap (a : StationId) (m : BitVec 8) (s : State) : State :=
  let old := (s.stations.get a).keyMap
  let buttons := (List.finRange 8).filter fun b => decide (b.val < (s.stations.get a).reportedButtons)
  let s := s.setStation a { s.stations.get a with misses := 0 }
  let s := buttons.foldl (compareButton a old m) s
  s.setStation a { s.stations.get a with keyMap := m }

/-! ## The outcome of a turn -/

/-- A turn fails (R25, R27, R28, R30, R34). -/
def failTurn (t : Turn) (bad : Bool) (s : State) : State := failTurnBy synthesizedRelease t bad s

/-- A good IDENT reply (R26, R27). -/
def identTurn (t : Turn) (reported : Byte) (buttons : Nat) (s : State) : State :=
  identTurnBy synthesizedRelease t reported buttons s

/-- A good STATE reply (R26, R28, R31, R32). -/
def stateTurn (t : Turn) (m : BitVec 8) (s : State) : State :=
  let a := t.address
  let m := m &&& buttonsUpTo (s.stations.get a).reportedButtons
  let s :=
    if t.deferred then deferredTransition a s
    else if (s.stations.get a).baselinePending then baselineMap a m s
    else compareMap a m s
  endTurn t s

/-! ## The commands -/

/-- The good STATE reply to the POLL of the open turn, with its turn. -/
def stateReplyOf (r : BusReply) (s : State) : Option (Turn × BitVec 8) :=
  match openTurn s with
  | some t =>
    match t.request with
    | .poll _ => (goodState t.address r).map fun m => (t, m)
    | .ident => none
  | none => none

/-- STATE_REPLY (R28): outside a reply window the bytes are ignored (R25). -/
def execStateReply (r : BusReply) (s : State) : Host.Outcome State Fault Refusal :=
  eventIf (fun s => (stateReplyOf r s).isSome)
    (fun s => match stateReplyOf r s with | some (t, m) => stateTurn t m s | none => s) s

/-- IDENT_REPLY (R27). -/
def execIdentReply (r : BusReply) (s : State) : Host.Outcome State Fault Refusal := execIdentReplyBy synthesizedRelease r s

/-- BAD_REPLY (R25, R34). -/
def execBadReply (r : BusReply) (s : State) : Host.Outcome State Fault Refusal := execBadReplyBy synthesizedRelease r s

/-- REPLY_WINDOW_CLOSE (R25, R34). -/
def execReplyWindowClose (s : State) : Host.Outcome State Fault Refusal := execReplyWindowCloseBy synthesizedRelease s

/-- STATION_GOES_MISSING (R28, R29): the bad reply, or the window's close, that is the third miss. -/
def execStationGoesMissing (r : Option BusReply) (s : State) : Host.Outcome State Fault Refusal :=
  execStationGoesMissingBy synthesizedRelease r s

end Sys2Proof.Machine
end

