-- ==== Sys2Proof/Machine/Writes.lean ====
section
/-! DEFINITION. The configuration writes (R184) that can end a gesture or that wait for a dispatch: of a contact input, a ladder
channel, a station, a binding. -/

namespace Sys2Proof.Machine

/-! ## Contact inputs (R1, R8, R9, R20, R21) -/

/-- An input's settings replaced in the live configuration. -/
def storeInput (i : InputId) (cs : InputSettings) (s : State) : State :=
  s.setSettings { s.settings with inputs := s.settings.inputs.set i cs }

/-- The ladder channel read on an input 41 to 48 (Introduction, section 7). -/
def channelOf (i : InputId) : Option ChannelId := if h : 40 ≤ i.val then some ⟨i.val - 40, by omega⟩ else none

/-- Whether an input is the source of a binding of class EGRESS (R1, R59). -/
def sourcesEgress (i : InputId) (s : State) : Bool :=
  s.settings.bindings.items.any fun b =>
    match b with
    | some x => decide (x.cls = .egress) && decide (x.source = .contact i)
    | none => false

/-- Whether a write is refused with DENIED (R1; notes/assumptions/11.md). -/
def inputDenied (i : InputId) (cs : InputSettings) (s : State) : Bool :=
  sourcesEgress i s && (!cs.egressCapable || decide (cs.function = .ladder))

/-- CONTACT to LADDER (R20). -/
def inputToLadder (i : InputId) (cs : InputSettings) (s : State) : State :=
  let s := storeInput i cs (synthesizedRelease (.contact i) s)
  let s := s.setInput i { filtered := .opened, pending := none, conditioning := .stopped }
  match channelOf i with
  | some ch => s.setLadder ch LadderState.started
  | none => s

/-- The channel's side of LADDER to CONTACT (R21, steps 1 to 3). -/
def stopLadder (ch : ChannelId) (s : State) : State :=
  let s := forButton ch (s.ladders.get ch).decode synthesizedRelease s
  let stopped := s.setLadder ch LadderState.off
  if (s.ladders.get ch).state = .fault then ladderMadeKnown ch .inactive stopped else stopped

/-- LADDER to CONTACT (R21). -/
def inputToContact (i : InputId) (cs : InputSettings) (s : State) : State :=
  let s := match channelOf i with
    | some ch => stopLadder ch s
    | none => s
  (storeInput i cs s).setInput i { filtered := .opened, pending := none, conditioning := .settling none false }

/-- Counting starts again (R9): any pending change and any settling run are discarded. -/
def InputState.recount (st : InputState) : InputState :=
  { st with
    pending := none
    conditioning := match st.conditioning with
      | .settling _ asserts => .settling none asserts
      | .running => .running
      | .stopped => .stopped }

/-- Whether a write changes sense, kind or participate (R8). -/
def retakesGesture (old new : InputSettings) : Bool :=
  decide (old.sense ≠ new.sense) || decide (old.kind ≠ new.kind) || decide (old.participate ≠ new.participate)

/-- The baseline of R8, step 3. -/
def retakeBaseline (i : InputId) (cs : InputSettings) (s : State) : State :=
  let st := s.inputs.get i
  if decide (st.conditioning = .running) && cs.participate && decide (st.filtered = cs.sense.pressLevel) then
    baseline (.contact i) s
  else s

/-- A write of an input whose function stays CONTACT (R8, R9). -/
def rewriteContact (i : InputId) (old cs : InputSettings) (s : State) : State :=
  let s := if retakesGesture old cs then synthesizedRelease (.contact i) s else s
  let s := storeInput i cs s
  let s := if old.noise = cs.noise then s else s.setInput i (s.inputs.get i).recount
  if retakesGesture old cs then retakeBaseline i cs s else s

/-- An accepted PUT_INPUT (R1). -/
def writeInput (i : InputId) (cs : InputSettings) (s : State) : State :=
  let old := s.settings.inputs.get i
  match old.function, cs.function with
  | .contact, .ladder => inputToLadder i cs s
  | .ladder, .contact => inputToContact i cs s
  | .ladder, .ladder => storeInput i cs s
  | .contact, .contact => rewriteContact i old cs s

/-- PUT_INPUT (R1). -/
def carryPutInput (p : List Byte) (s : State) : Answer :=
  if p.length ≠ 10 then refuse .length s
  else if s.saving then refuse .busy s
  else match inputOf p with
    | none => refuse .range s
    | some (i, cs) => if inputDenied i cs s then refuse .denied s else done [] (writeInput i cs s)

/-! ## Ladder channels (R10, R11, R17) -/

def storeLadder (ch : ChannelId) (cs : LadderSettings) (s : State) : State :=
  s.setSettings { s.settings with ladders := s.settings.ladders.set ch cs }

/-- The restart of a NORMAL or FAULT channel by a write (R17). A departure from FAULT is made known for the home zone the
channel had and, where it differs, for the new one. -/
def restartLadder (ch : ChannelId) (cs : LadderSettings) (s : State) : State :=
  let old := (s.settings.ladders.get ch).homeZone
  let s := forButton ch (s.ladders.get ch).decode synthesizedRelease s
  let started := (storeLadder ch cs s).setLadder ch LadderState.started
  if (s.ladders.get ch).state = .fault then
    reevaluateWhere (fun z => decide (z = old) || decide (z = cs.homeZone)) (raise (.ladder ch .normal) started)
  else started

/-- An accepted PUT_LADDER (R17). -/
def writeLadder (ch : ChannelId) (cs : LadderSettings) (s : State) : State :=
  match (s.ladders.get ch).state with
  | .inactive => storeLadder ch cs s
  | .normal | .fault => restartLadder ch cs s

/-- PUT_LADDER (R10, R11). -/
def carryPutLadder (p : List Byte) (s : State) : Answer :=
  if p.length ≠ 34 then refuse .length s
  else if s.saving then refuse .busy s
  else match ladderOf p with
    | none => refuse .range s
    | some (ch, cs) => done [] (writeLadder ch cs s)

/-! ## Stations (R22, R23) -/

/-- PUT_STATION (R22). -/
def carryPutStation (p : List Byte) (s : State) : Answer :=
  if p.length ≠ 22 then refuse .length s
  else if s.saving then refuse .busy s
  else match stationOf p with
    | none => refuse .range s
    | some (a, cs) => done [] (writeStation a cs s)

/-! ## Bindings (R57 to R61) -/

/-- An accepted PUT_BINDING, in either form (R61): the slot's new contents, and any ramp of the slot ended. -/
def writeBinding (b : SlotId) (x : Option Binding) (s : State) : State :=
  endRamps (fun r => decide (r.binding = b))
    (s.setSettings { s.settings with bindings := s.settings.bindings.set b x })

/-- Whether a source may carry a binding of class EGRESS (R59). -/
def egressAllowed (src : Source) (s : State) : Bool :=
  match src with
  | .contact i =>
    (s.settings.inputs.get i).egressCapable && decide ((s.settings.inputs.get i).function = .contact)
  | .ladder _ _ | .station _ _ => false

/-- PUT_BINDING (R57 to R60): the clear form has 2 bytes, the full form 15 (R188). -/
def carryPutBinding (p : List Byte) (s : State) : Answer :=
  if p.length ≠ 2 ∧ p.length ≠ 15 then refuse .length s
  else if s.saving then refuse .busy s
  else if p.length = 2 then
    match idOf 512 (wordAt p 0) with
    | none => refuse .range s
    | some b => done [] (writeBinding b none s)
  else match bindingOf p with
    | none => refuse .range s
    | some (b, x) =>
      if x.cls = .egress ∧ egressAllowed x.source s = false then refuse .denied s
      else done [] (writeBinding b (some x) s)

/-! ## The commands -/

def execPutInput (p : List Byte) (s : State) : Host.Outcome State Fault Refusal := request 0x30 carryPutInput p s
def execPutLadder (p : List Byte) (s : State) : Host.Outcome State Fault Refusal := request 0x31 carryPutLadder p s
def execPutStation (p : List Byte) (s : State) : Host.Outcome State Fault Refusal := request 0x32 carryPutStation p s
def execPutBinding (p : List Byte) (s : State) : Host.Outcome State Fault Refusal := request 0x33 carryPutBinding p s

end Sys2Proof.Machine
end

