-- ==== Sys2Proof/Machine/Restarts.lean ====
section
/-! DEFINITION. The three ways of starting (section 6 of the Introduction, chapter 11) and the two ways of stopping. -/

namespace Sys2Proof.Machine

/-! ## Power-on and reset line (R195) -/

/-- A contact input at start (R6, R19). -/
def startedInput (cs : InputSettings) : InputState :=
  { filtered := .opened
    pending := none
    conditioning := match cs.function with
      | .contact => .settling none cs.assertAtStart
      | .ladder => .stopped }

/-- The contact input a ladder channel is read on (Introduction, section 7). -/
def inputOfChannel (ch : ChannelId) : InputId := ⟨40 + ch.val, by omega⟩

/-- A ladder channel at start (R19). -/
def startedLadder (inputs : Table InputSettings 48) (ch : ChannelId) : LadderState :=
  match (inputs.get (inputOfChannel ch)).function with
  | .ladder => LadderState.started
  | .contact => LadderState.off

/-- A circuit at start: toward its rest level with its default fade (R135). -/
def startedCircuit (cs : CircuitSettings) : Circuit := Circuit.started.retarget cs cs.defaultFade

/-- Every zone evaluated from its conditions at start (R155): HELD if called, else FREE. -/
def startZones (s : State) : State :=
  { s with zones := Table.ofFn fun z =>
      { state := if called s z then .held else .free, force := false, timer := none } }

/-- The part as a start leaves it, from the configuration loaded and the reset-cause record (R195). -/
def startFrom (settings : Settings) (image : Option Settings) (causes : ResetCauses) (draws : Nat)
    (pending : List Instr) : State :=
  let s := startZones
    { State.reset with
      settings := settings
      image := image
      causes := causes
      inputs := settings.inputs.map startedInput
      ladders := Table.ofFn (startedLadder settings.inputs)
      stations := settings.stations.map fun cs => StationState.started (writtenState cs)
      circuits := settings.circuits.map startedCircuit
      flags := settings.general.flagStart
      enables := settings.general.enableStart
      silence := silenceStart settings.general.silenceTimeout
      draws := draws
      pending := pending }
  beginTurn (firstServed s) s

/-- The load (R195): a valid image gives every record, an invalid one none, with STORE_EMPTY set. -/
def loadAndStart (causes : ResetCauses) (s : State) : State :=
  match s.image with
  | some c => startFrom c (some c) causes s.draws s.pending
  | none => startFrom Settings.defaults none { causes with storeEmpty := true } s.draws s.pending

/-- Power-on (R195, R196). -/
def powerUp (s : State) : State := loadAndStart { ResetCauses.clear with powerOn := true } s

/-- Reset line (R195, R196). -/
def resetByLine (s : State) : State := loadAndStart { s.causes with resetLine := true } s

/-- POWER_ON (R195), in every state of the supply (notes/assumptions/16.md). -/
def execPowerOn (s : State) : Host.Outcome State Fault Refusal := .next (powerUp s)

/-- RESET_LINE (R195): a part without supply stays so. -/
def execResetLine (s : State) : Host.Outcome State Fault Refusal :=
  match s.power with
  | .running | .heldInReset => .next (resetByLine s)
  | .unpowered => .next s

/-! ## Stopping (R166, R187, R194, R196) -/

/-- The reset input is closed: the frames in progress on the circuit link and the control link are cut off without their
checks, a save is cut off with its image invalid as it was marked, and the part is held in reset. -/
def holdInReset (s : State) : State :=
  { s with power := .heldInReset, refresh := none, sending := none, saving := false }

/-- RESET_INPUT_ASSERTED (R166, R194). -/
def execResetInputAsserted (s : State) : Host.Outcome State Fault Refusal := whenRunning holdInReset s

/-- Supply is lost: all running state and the reset-cause record are lost, a save is cut off. What is lost is shown as
`State.reset` shows it; nothing can read it before the next power-on (notes/assumptions/16.md). -/
def losePower (s : State) : State :=
  { State.reset with
    power := .unpowered, image := s.image, causes := ResetCauses.clear, draws := s.draws, pending := s.pending }

/-- LOSS_OF_SUPPLY (R194, R196). -/
def execLossOfSupply (s : State) : Host.Outcome State Fault Refusal :=
  match s.power with
  | .running | .heldInReset => .next (losePower s)
  | .unpowered => .next s

/-! ## The warm restart (R198) -/

/-- A contact input at a warm restart (R7): kept, with assert-at-start ignored by a settling run. -/
def InputState.restart (st : InputState) : InputState :=
  { st with conditioning := match st.conditioning with
      | .settling run _ => .settling run false
      | .running => .running
      | .stopped => .stopped }

/-- The baseline of a contact input at a warm restart (R7, R55). -/
def restartContactTracker (cs : InputSettings) (st : InputState) : Tracker :=
  match cs.function with
  | .contact => if cs.participate && decide (st.filtered = cs.sense.pressLevel) then Tracker.latent else Tracker.idle
  | .ladder => Tracker.idle

/-- The baselines of a ladder channel's buttons at a warm restart (R19, R55). -/
def restartLadderTrackers (l : LadderState) : Table Tracker 6 :=
  Table.ofFn fun b => if l.state = .normal ∧ l.decode = b.val + 1 then Tracker.latent else Tracker.idle

/-- A station address at a warm restart (R42). -/
def restartedStation (cs : StationSettings) (st : StationState) : StationState :=
  { st with
    state := writtenState cs, keyMap := 0, baselinePending := false, misses := 0, overrides := Table.replicate 8 none
    uncounted := false }

/-- The RESTART claim (R111). -/
def restartClaim (level : Nat) : Claim := { owner := .restart, cls := .base, level := level, zone := none }

/-- A circuit at a warm restart (R111, R136, R164): one RESTART claim at its level, no fade, the dwell afresh. -/
def Circuit.restart (cs : CircuitSettings) (c : Circuit) : Circuit :=
  { c with claims := [restartClaim c.level], fade := none, relay := c.relay.restart cs }

/-- A zone's state after a warm restart, from the state before and whether it is called (R156). -/
def restartedZoneState (zs : ZoneSettings) (calledNow : Bool) (before : ZoneStateName) : ZoneStateName :=
  if calledNow then .held
  else match before with
    | .held => leaveHeld zs
    | .free => .free
    | .releasing => .releasing
    | .awaiting => .awaiting

/-- One zone at a warm restart (R156): a changed state is entered and reported; a RELEASING zone that stays so has its
timer started afresh at the full delay. -/
def restartZone (s : State) (z : ZoneId) : State :=
  let zone := s.zones.get z
  let zs := s.settings.zones.get z
  let next := restartedZoneState zs (called s z) zone.state
  if next = zone.state then s.setZone z { zone with timer := releaseTimer zs next } else enterZone z next s

/-- Steps 2 to 4 of R198, and R186: the record, the report queue, then every block. -/
def warmRestart (s : State) : State :=
  let s :=
    { s with
      causes := { s.causes with restart := true }
      reports := []
      lost := 0
      inputs := s.inputs.map InputState.restart
      stations := Table.zipWith restartedStation s.settings.stations s.stations
      contactTrackers := Table.zipWith restartContactTracker s.settings.inputs s.inputs
      ladderTrackers := s.ladders.map restartLadderTrackers
      stationTrackers := Table.replicate 32 (Table.replicate 8 Tracker.idle)
      circuits := Table.zipWith Circuit.restart s.settings.circuits s.circuits
      ramps := [] }
  let s := (List.finRange 16).foldl restartZone s
  beginTurn (firstServed s) s

/-- RESTART (R186, R198). -/
def carryRestart (p : List Byte) (s : State) : Answer :=
  if p.length ≠ 0 then refuse .length s
  else if s.saving then refuse .busy s
  else done [] (warmRestart s)

/-- RESTART. -/
def execRestart (p : List Byte) (s : State) : Host.Outcome State Fault Refusal := request 0x09 carryRestart p s

end Sys2Proof.Machine
end

