-- ==== Sys2Proof/Machine/Dispatch.lean ====
section
/-! DEFINITION. `exec`: one arm per command, each one call of its meaning. -/

namespace Sys2Proof.Machine

def exec (i : Instr) (s : State) : Host.Outcome State Fault Refusal :=
  match i with
  | .powerOn => Sys2Proof.Machine.execPowerOn s
  | .resetLine => Sys2Proof.Machine.execResetLine s
  | .contactSample input raw => Sys2Proof.Machine.execContactSample input raw s
  | .changeAccepted input raw => Sys2Proof.Machine.execChangeAccepted input raw s
  | .settlingComplete input raw => Sys2Proof.Machine.execSettlingComplete input raw s
  | .ladderSample channel reading => Sys2Proof.Machine.execLadderSample channel reading s
  | .ladderDecodeChange channel reading => Sys2Proof.Machine.execLadderDecodeChange channel reading s
  | .ladderBaseline channel reading => Sys2Proof.Machine.execLadderBaseline channel reading s
  | .ladderFaultEntry channel reading => Sys2Proof.Machine.execLadderFaultEntry channel reading s
  | .ladderRecovery channel reading => Sys2Proof.Machine.execLadderRecovery channel reading s
  | .replyWindowOpen => Sys2Proof.Machine.execReplyWindowOpen s
  | .stateReply reply => Sys2Proof.Machine.execStateReply reply s
  | .identReply reply => Sys2Proof.Machine.execIdentReply reply s
  | .badReply reply => Sys2Proof.Machine.execBadReply reply s
  | .replyWindowClose => Sys2Proof.Machine.execReplyWindowClose s
  | .stationGoesMissing reply => Sys2Proof.Machine.execStationGoesMissing reply s
  | .flash3OverrideEnd address button => Sys2Proof.Machine.execFlash3OverrideEnd address button s
  | .holdTimerExpiry source => Sys2Proof.Machine.execHoldTimerExpiry source s
  | .tick => Sys2Proof.Machine.execTick s
  | .fadeEnd circuit => Sys2Proof.Machine.execFadeEnd circuit s
  | .dwellEnd circuit => Sys2Proof.Machine.execDwellEnd circuit s
  | .zeroCrossing moment => Sys2Proof.Machine.execZeroCrossing moment s
  | .mainsLock moment => Sys2Proof.Machine.execMainsLock moment s
  | .mainsSilenceExpiry => Sys2Proof.Machine.execMainsSilenceExpiry s
  | .releaseTimerExpiry zone => Sys2Proof.Machine.execReleaseTimerExpiry zone s
  | .characterReceived character stopBitError => Sys2Proof.Machine.execCharacterReceived character stopBitError s
  | .gapTimerExpiry => Sys2Proof.Machine.execGapTimerExpiry s
  | .silenceTimerExpiry => Sys2Proof.Machine.execSilenceTimerExpiry s
  | .transmitFrameEnd => Sys2Proof.Machine.execTransmitFrameEnd s
  | .damagedEntry => Sys2Proof.Machine.execDamagedEntry s
  | .unknownKind kind payload => Sys2Proof.Machine.execUnknownKind kind payload s
  | .hello payload => Sys2Proof.Machine.execHello payload s
  | .status payload => Sys2Proof.Machine.execStatus payload s
  | .cause payload => Sys2Proof.Machine.execCause payload s
  | .save payload => Sys2Proof.Machine.execSave payload s
  | .saveEnd verified => Sys2Proof.Machine.execSaveEnd verified s
  | .restart payload => Sys2Proof.Machine.execRestart payload s
  | .setFlags payload => Sys2Proof.Machine.execSetFlags payload s
  | .force payload => Sys2Proof.Machine.execForce payload s
  | .release payload => Sys2Proof.Machine.execRelease payload s
  | .setAnnunciator payload => Sys2Proof.Machine.execSetAnnunciator payload s
  | .recallRequest payload => Sys2Proof.Machine.execRecall payload s
  | .drop payload => Sys2Proof.Machine.execDrop payload s
  | .levelRequest payload => Sys2Proof.Machine.execLevelRequest payload s
  | .clear payload => Sys2Proof.Machine.execClear payload s
  | .dropRestart payload => Sys2Proof.Machine.execDropRestart payload s
  | .queryCircuit payload => Sys2Proof.Machine.execQueryCircuit payload s
  | .queryScene payload => Sys2Proof.Machine.execQueryScene payload s
  | .queryZone payload => Sys2Proof.Machine.execQueryZone payload s
  | .queryStation payload => Sys2Proof.Machine.execQueryStation payload s
  | .queryInputs payload => Sys2Proof.Machine.execQueryInputs payload s
  | .putInput payload => Sys2Proof.Machine.execPutInput payload s
  | .getInput payload => Sys2Proof.Machine.execGetInput payload s
  | .putLadder payload => Sys2Proof.Machine.execPutLadder payload s
  | .getLadder payload => Sys2Proof.Machine.execGetLadder payload s
  | .putStation payload => Sys2Proof.Machine.execPutStation payload s
  | .getStation payload => Sys2Proof.Machine.execGetStation payload s
  | .putBinding payload => Sys2Proof.Machine.execPutBinding payload s
  | .getBinding payload => Sys2Proof.Machine.execGetBinding payload s
  | .putScene payload => Sys2Proof.Machine.execPutScene payload s
  | .getScene payload => Sys2Proof.Machine.execGetScene payload s
  | .putCircuit payload => Sys2Proof.Machine.execPutCircuit payload s
  | .getCircuit payload => Sys2Proof.Machine.execGetCircuit payload s
  | .putZone payload => Sys2Proof.Machine.execPutZone payload s
  | .getZone payload => Sys2Proof.Machine.execGetZone payload s
  | .putAnnunciator payload => Sys2Proof.Machine.execPutAnnunciator payload s
  | .getAnnunciator payload => Sys2Proof.Machine.execGetAnnunciator payload s
  | .putGeneral payload => Sys2Proof.Machine.execPutGeneral payload s
  | .getGeneral payload => Sys2Proof.Machine.execGetGeneral payload s
  | .resetInputAsserted => Sys2Proof.Machine.execResetInputAsserted s
  | .lossOfSupply => Sys2Proof.Machine.execLossOfSupply s

end Sys2Proof.Machine
end

