-- ==== Sys2Proof/Safety.lean ====
section
/-! DEFINITION. What the manual promises of every state and of every step, in the terms the claims use: settings within
their ranges, ordered claim lists, levels that follow targets, zones that follow their conditions, the frames that say
what a step leaves alone, and the terms of dispatch and of refused requests. -/

namespace Sys2Proof.Machine

/-! ## Settings within their ranges -/

/-- A settings record of a contact input that R1 admits. -/
def InputSettings.ok (i : InputId) (c : InputSettings) : Bool :=
  decide (3 ≤ c.holdTime) && decide (c.holdTime ≤ 30) && functionAllowed i c.function

/-- A settings record of a ladder channel that R10 and R11 admit. -/
def LadderSettings.ok (c : LadderSettings) : Bool :=
  decide (1 ≤ c.buttonCount) && decide (c.buttonCount ≤ 6) && windowsInRange c.windows
    && windowsApart c.buttonCount c.windows && decide (2 ≤ c.stability) && decide (c.stability ≤ 8)
    && decide (3 ≤ c.holdTime) && decide (c.holdTime ≤ 30)

/-- A settings record of a station that R22 admits. -/
def StationSettings.ok (c : StationSettings) : Bool :=
  decide (1 ≤ c.expectedType) && decide (c.expectedType ≤ 15) && decide (3 ≤ c.holdTime) && decide (c.holdTime ≤ 30)

/-- A fade that is absent or lies within 300 s (R58). -/
def fadeOk (fade : Option Nat) : Bool := fade.all fun f => decide (f ≤ 3000)

/-- An action whose level and fade R58 admits. -/
def Action.ok : Action → Bool
  | .sceneOn _ f | .sceneOff _ f | .sceneToggle _ f | .levelOff _ f | .zoneClear _ f => fadeOk f
  | .level _ l f => decide (l ≤ 1000) && fadeOk f
  | .raise _ | .lower _ | .flagSet _ | .flagClear _ | .flagToggle _ | .holdForce _ | .holdRelease _ | .reportOnly => true

/-- A name of at most twelve characters of code 32 to 126 (R82, R140). -/
def nameOk (name : List Byte) : Bool :=
  decide (name.length ≤ 12) && name.all fun c => decide (32 ≤ c.toNat) && decide (c.toNat ≤ 126)

/-- Entries in ascending circuit order, no circuit twice, each level within 1000 (R81). -/
def entriesOk (l : List SceneEntry) : Bool :=
  decide (l.length ≤ 64) && l.all (fun e => decide (e.level ≤ 1000)) && decide ((l.map (·.circuit)).Pairwise (· < ·))

/-- A scene record that R82 and R83 admit. -/
def Scene.ok (c : Scene) : Bool :=
  nameOk c.name && decide (c.onFade ≤ 3000) && decide (c.offFade ≤ 3000) && entriesOk c.entries

/-- A settings record of a circuit that R116 admits. -/
def CircuitSettings.ok (c : CircuitSettings) : Bool :=
  decide (c.cap ≤ 1000) && decide (c.preheat ≤ 1000) && decide (c.rest ≤ 1000) && decide (c.defaultFade ≤ 3000)
    && decide (c.onThreshold ≤ 1000) && decide (c.offThreshold ≤ 1000) && decide (c.minimumDwell ≤ 50)

/-- A settings record of a zone that R140 admits. -/
def ZoneSettings.ok (c : ZoneSettings) : Bool :=
  decide (c.delay ∈ [0, 5, 10, 30, 60, 120]) && decide (10 ≤ c.raiseRate) && decide (c.raiseRate ≤ 1000) && nameOk c.name

/-- The scene entries that a configuration holds (R84). -/
def Settings.entryCount (c : Settings) : Nat := (c.scenes.items.map fun sc => sc.entries.length).sum

/-- Every record of a configuration holds values that its write request admits, and the scenes fit the entry pool. -/
structure Settings.InRange (c : Settings) : Prop where
  inputs : ∀ i, (c.inputs.get i).ok i = true
  ladders : ∀ ch, (c.ladders.get ch).ok = true
  stations : ∀ a, (c.stations.get a).ok = true
  bindings : ∀ b x, c.bindings.get b = some x → x.action.ok = true
  scenes : ∀ sc, (c.scenes.get sc).ok = true
  pool : c.entryCount ≤ poolSize
  circuits : ∀ n, (c.circuits.get n).ok = true
  zones : ∀ z, (c.zones.get z).ok = true
  timeout : c.general.silenceTimeout ≤ 255

/-- The law of the device of R59: every binding of class EGRESS has as its source a contact input that is egress-capable
and whose function is CONTACT. -/
def Settings.EgressLaw (c : Settings) : Prop :=
  ∀ b x, c.bindings.get b = some x → x.cls = .egress →
    ∃ i, x.source = .contact i ∧ (c.inputs.get i).egressCapable = true ∧ (c.inputs.get i).function = .contact

/-- What holds of the live configuration and of the image, where there is one (R191). -/
def OfBothCopies (P : Settings → Prop) (s : State) : Prop := P s.settings ∧ ∀ c, s.image = some c → P c

/-! ## Claims -/

/-- A claim list as R97 has it: at most 4 claims, no key twice, ordered by class from highest to lowest. -/
structure ClaimListOk (l : List Claim) : Prop where
  short : l.length ≤ 4
  keys : (l.map Claim.key).Nodup
  ordered : l.Pairwise fun a b => b.cls.rank ≤ a.cls.rank

/-- The class and zone that R96 gives the claims of each owner kind. -/
def Claim.placedAs (c : Claim) : Bool :=
  match c.owner with
  | .scene _ =>
    match c.zone with
    | some _ => decide (c.cls ≠ .base)
    | none => c.cls.ofHost
  | .source _ => decide (c.cls ≠ .base) && c.zone.isSome
  | .remote => c.cls.ofHost && c.zone.isNone
  | .restart => decide (c.cls = .base) && c.zone.isNone

/-- Every claim list of a state is as R97 has it, and every claim is one R96 lists. -/
structure ClaimsInOrder (s : State) : Prop where
  lists : ∀ c, ClaimListOk (s.circuits.get c).claims
  owners : ∀ c, ∀ cl ∈ (s.circuits.get c).claims, cl.placedAs = true

/-! ## Levels -/

/-- A fade record as R119 has it, over the level it has reached: S and T differ, N is at least 1, k has not reached N, and
the level lies between S and T. -/
structure Fade.Sound (f : Fade) (level : Nat) : Prop where
  moves : f.start ≠ f.target
  length : 1 ≤ f.steps
  running : f.count < f.steps
  start : f.start ≤ 1000
  between : min f.start f.target ≤ level ∧ level ≤ max f.start f.target

/-- One circuit's running state as R119 and R131 have it. -/
structure Circuit.Sound (cs : CircuitSettings) (c : Circuit) : Prop where
  claims : ∀ cl ∈ c.claims, cl.level ≤ 1000
  level : c.level ≤ 1000
  output : c.output ≤ 255
  /-- While no fade record exists, L equals the circuit's target. -/
  resting : c.fade = none → c.level = c.target cs
  /-- While a fade record exists, its T is the circuit's target. -/
  fading : ∀ f, c.fade = some f → f.target = c.target cs ∧ f.Sound c.level

/-- Every circuit's level is on its way to its target, within 0 to 1000 (R119, R131), and the configurations that give
levels are in range. -/
structure LevelsFollowTargets (s : State) : Prop where
  settings : OfBothCopies Settings.InRange s
  circuits : ∀ c, (s.circuits.get c).Sound (s.settings.circuits.get c)

/-! ## Ramps -/

/-- The ramp table as R125 and R126 have it: at most 16 ramps, in ascending binding slot (so no two of one binding), each
accumulator below 50. -/
structure RampTableOk (s : State) : Prop where
  short : s.ramps.length ≤ 16
  ascending : (s.ramps.map (·.binding)).Pairwise (· < ·)
  accumulators : ∀ r ∈ s.ramps, r.accumulator < 50

/-- No LOCAL ramp belongs to a zone that is not FREE (R149). -/
def LocalRampsOnlyInFreeZones (s : State) : Prop :=
  ∀ r ∈ s.ramps, r.cls = .loc → (s.zones.get r.zone).state = .free

/-! ## Relays -/

/-- One circuit's relay record as R157 has it: a change waits only for the opposite of the relay state, AFTER_DWELL only
while the dwell runs, AT_CROSSING only with the dwell over, align on and the tracker LOCKED (R161, R162). -/
structure Relay.Sound (cs : CircuitSettings) (locked : Bool) (r : Relay) : Prop where
  afterDwell : ∀ b, r.waiting = .afterDwell b → b ≠ r.state ∧ r.dwellRunning = true
  atCrossing : ∀ b, r.waiting = .atCrossing b → b ≠ r.state ∧ r.dwellRunning = false ∧ cs.align = true ∧ locked = true

/-- Every relay record is sound, and a relay request stands at OFF while its circuit's law is not SWITCHED (R118). -/
structure RelaysInOrder (s : State) : Prop where
  relays : ∀ c, (s.circuits.get c).relay.Sound (s.settings.circuits.get c) (mainsLocked s)
  requests : ∀ c, (s.settings.circuits.get c).law ≠ .switched → (s.circuits.get c).request = false

/-! ## Zones -/

/-- The channels that are sampled are the ones whose input has function LADDER (section 1.6). -/
def ChannelsFollowFunctions (s : State) : Prop :=
  ∀ ch, (s.ladders.get ch).state = .inactive ↔ (s.settings.inputs.get (inputOfChannel ch)).function = .contact

/-- Every zone is HELD exactly while it is called, and its release timer runs exactly in RELEASING (R143, R147). -/
structure ZonesFollowConditions (s : State) : Prop where
  held : ∀ z, (s.zones.get z).state = .held ↔ called s z = true
  timers : ∀ z, (s.zones.get z).timer.isSome = decide ((s.zones.get z).state = .releasing)
  channels : ChannelsFollowFunctions s

/-! ## Gestures -/

/-- A tracker's record as R43 has it. -/
def Tracker.ok (t : Tracker) : Bool :=
  match t.state with
  | .idle => decide (t = Tracker.idle)
  | .latent => decide (t = Tracker.latent)
  | .down => t.kind.isSome && t.holdTime.isSome && (t.timer.isSome == decide (t.kind = some .momentary))
  | .held => decide (t.kind = some .momentary) && t.holdTime.isSome && t.timer.isNone

/-- Every tracker's record is as R43 has it. -/
def TrackersInOrder (s : State) : Prop := ∀ src, (s.tracker src).ok = true

/-! ## Queues -/

/-- The bounds of the control link's queues and count (R176, R181), and of a channel's stable decode (R14). -/
structure CountsBounded (s : State) : Prop where
  requests : s.requests.length ≤ 4
  reports : s.reports.length ≤ 32
  lost : s.lost ≤ 255
  decodes : ∀ ch, (s.ladders.get ch).decode ≤ 6

/-! ## Frames -/

/-- Nothing but the report queue and the lost count. -/
def OnlyReports (s t : State) : Prop := t = { s with reports := t.reports, lost := t.lost }

/-- Nothing but the zones, the ramp table and reports: what a change of a zone reaches (R143, R149, R150). -/
def OnlyZones (s t : State) : Prop :=
  t = { s with zones := t.zones, ramps := t.ramps, reports := t.reports, lost := t.lost }

/-- Nothing but the circuits and reports: what a placement or a withdrawal reaches (R98 to R103). -/
def OnlyClaims (s t : State) : Prop := t = { s with circuits := t.circuits, reports := t.reports, lost := t.lost }

/-- Nothing but what an action reaches: circuits, ramps, flags, zones, reports (R69 to R79). -/
def OnlyActions (s t : State) : Prop :=
  t = { s with
    circuits := t.circuits, ramps := t.ramps, flags := t.flags, zones := t.zones, reports := t.reports, lost := t.lost }

/-- Nothing but what gestures reach where nothing comes between the bindings of their dispatches: what actions reach, the
trackers, and of the stations their FLASH3 overrides (R45 to R50, R63 to R68). -/
structure OnlyGestures (s t : State) : Prop where
  fields : t = { s with
    circuits := t.circuits, ramps := t.ramps, flags := t.flags, zones := t.zones, reports := t.reports, lost := t.lost,
    contactTrackers := t.contactTrackers, ladderTrackers := t.ladderTrackers, stationTrackers := t.stationTrackers,
    stations := t.stations }
  stations : ∀ a, t.stations.get a = { s.stations.get a with overrides := (t.stations.get a).overrides }

/-- Nothing but what gestures of a source reach, and what may come between the bindings of their dispatches (R64, R85, R107,
R148): the inputs, the records of the inputs, the channels, the stations and the bindings, and the request in hand stay. What a
source's own block is in the middle of stays too: of the stations all but the overrides in a dispatch of theirs, the channels in
one of theirs, and the settings and the enables while a request is being carried out (notes/assumptions/28.md). -/
structure OnlyDispatched (src : Source) (s t : State) : Prop where
  fields : t = { s with
    settings := { s.settings with
      scenes := t.settings.scenes, circuits := t.settings.circuits, zones := t.settings.zones,
      annunciators := t.settings.annunciators, general := t.settings.general }
    image := t.image, saving := t.saving, causes := t.causes, ladders := t.ladders, stations := t.stations, turn := t.turn,
    contactTrackers := t.contactTrackers, ladderTrackers := t.ladderTrackers, stationTrackers := t.stationTrackers,
    circuits := t.circuits, ramps := t.ramps, frameCount := t.frameCount, refresh := t.refresh, mains := t.mains,
    zones := t.zones, flags := t.flags, enables := t.enables, framer := t.framer, requests := t.requests,
    replySlot := t.replySlot, ahead := t.ahead, sending := t.sending, reports := t.reports, lost := t.lost, silence := t.silence,
    draws := t.draws }
  ahead : s.carrying = false → s.ahead = none → t.ahead = none
  bus : ofStation src = true → t.turn = s.turn ∧
    ∀ a, t.stations.get a = { s.stations.get a with overrides := (t.stations.get a).overrides }
  sampler : ofLadder src = true ∨ s.carrying = true → t.ladders = s.ladders
  carried : s.carrying = true → t.settings = s.settings ∧ t.enables = s.enables

/-- While a request in hand has reports waiting, the reports that leave the queue are of those ahead of them, and others join it
behind (R179, R180). -/
def OwnReportsWait (s t : State) : Prop :=
  ∀ k, s.ahead = some k → k < s.reports.length →
    ∃ j ≤ k, ∃ new, t.ahead = some (k - j) ∧ t.reports = s.reports.drop j ++ new

/-- Nothing but the circuits, the ramps, the refresh frame and its count, and the remaining times of the timers that run: no
timer starts and none ends, and every other part of a record with a timer in it stays (R123). What becomes of a remaining
time is the model's own and left open (notes/assumptions/2.md). -/
structure OnlyLevelsAndTimes (s t : State) : Prop where
  fields : t = { s with
    circuits := t.circuits, ramps := t.ramps, refresh := t.refresh, frameCount := t.frameCount,
    contactTrackers := t.contactTrackers, ladderTrackers := t.ladderTrackers, stationTrackers := t.stationTrackers,
    stations := t.stations, turn := t.turn, mains := t.mains, zones := t.zones, framer := t.framer,
    silence := t.silence }
  trackers : ∀ src, t.tracker src = { s.tracker src with timer := (t.tracker src).timer } ∧
    (t.tracker src).timer.isSome = (s.tracker src).timer.isSome
  stations : ∀ a, t.stations.get a = { s.stations.get a with overrides := (t.stations.get a).overrides } ∧
    ∀ b, ((t.stations.get a).overrides.get b).isSome = ((s.stations.get a).overrides.get b).isSome
  turn : (s.turn = none → t.turn = none) ∧
    ∀ tn, s.turn = some tn → ∃ w, t.turn = some { tn with window := w } ∧ w.isSome = tn.window.isSome
  mains : t.mains = { s.mains with silence := t.mains.silence } ∧ t.mains.silence.isSome = s.mains.silence.isSome
  zones : ∀ z, t.zones.get z = { s.zones.get z with timer := (t.zones.get z).timer } ∧
    (t.zones.get z).timer.isSome = (s.zones.get z).timer.isSome
  framer : match s.framer with
    | .idle => t.framer = .idle
    | .awaitLen _ => ∃ gap, t.framer = .awaitLen gap
    | .body len bytes _ => ∃ gap, t.framer = .body len bytes gap
  silence : match s.silence with
    | .stopped => t.silence = .stopped
    | .running _ => ∃ remaining, t.silence = .running remaining
    | .expired => t.silence = .expired

/-- The trackers of every source but those listed are the same. -/
def OtherTrackersKept (l : List Source) (s t : State) : Prop := ∀ src, src ∉ l → t.tracker src = s.tracker src

/-! ## Withdrawals -/

/-- A circuit that loses the claims picked by `p` and, where it held one, heads for its new target (R97, R102, R103, R105):
the level of the claim then first, or the rest level. -/
def Circuit.losing (p : Claim → Bool) (rest fade : Nat) (c : Circuit) : Circuit :=
  if c.claims.any p then
    { c with claims := c.claims.filter fun cl => !p cl }.headFor
      (match c.claims.filter fun cl => !p cl with
        | [] => rest
        | cl :: _ => cl.level) fade
  else c

/-! ## Dispatches -/

/-- `l` holds the matching bindings of a trigger, each with its slot, in ascending slot order (R63). -/
structure MatchingInOrder (src : Source) (trg : Trigger) (s : State) (l : List (SlotId × Binding)) : Prop where
  ascending : (l.map (·.1)).Pairwise (· < ·)
  matching : ∀ b x, (b, x) ∈ l ↔
    s.settings.bindings.get b = some x ∧ x.enabled = true ∧ x.source = src ∧ x.trigger = trg

/-- The test of R64, made on the state in which the dispatcher reaches the binding. -/
abbrev Silenced (sup : List ZoneId) (x : Binding) (s : State) : Prop :=
  x.cls = .loc ∧ (x.zone ∈ sup ∨ (s.zones.get x.zone).state ≠ .free)

/-- The kinds of request that wait for the end of a dispatch: RESTART and PUT_BINDING (R62), and PUT_INPUT, PUT_LADDER and
PUT_STATION, by the model's choice (notes/assumptions/28.md). -/
def waitingKinds : List Byte := [0x09, 0x33, 0x30, 0x31, 0x32]

/-- At most one binding matches a trigger, so nothing can come between two (R63). -/
def AtMostOneMatches (src : Source) (trg : Trigger) (s : State) : Prop :=
  ∀ b c x y, s.settings.bindings.get b = some x → s.settings.bindings.get c = some y →
    x.enabled = true → y.enabled = true → x.source = src → y.source = src → x.trigger = trg → y.trigger = trg → b = c

/-- A binding that is reached: one that is suppressed does nothing, any other runs (R63, R65). -/
def acted (sup : List ZoneId) (s : State) (bx : SlotId × Binding) : State :=
  if Silenced sup bx.2 s then s else runAction bx.1 bx.2 s

/-- The state after the bindings of a list are reached in order, with what `gap` makes of it before each but the first (R63,
R64, R65, R107, R148). -/
def afterBindings (gap : State → State) (sup : List ZoneId) (l : List (SlotId × Binding)) (s : State) : State :=
  match l with
  | [] => s
  | bx :: rest => rest.foldl (fun v bx => acted sup (gap v) bx) (acted sup s bx)

/-- The state in which a binding is reached, after those of a list before it. -/
def reachedAfter (gap : State → State) (sup : List ZoneId) (before : List (SlotId × Binding)) (s : State) : State :=
  match before with
  | [] => s
  | bx :: rest => gap (afterBindings gap sup (bx :: rest) s)

/-- Some binding of the list runs, reached in order (R67). -/
def SomeRuns (gap : State → State) (sup : List ZoneId) (l : List (SlotId × Binding)) (s : State) : Prop :=
  ∃ before b x rest, l = before ++ (b, x) :: rest ∧ ¬Silenced sup x (reachedAfter gap sup before s)

/-- Some binding of the list is suppressed, reached in order (R67). -/
def SomeIsSuppressed (gap : State → State) (sup : List ZoneId) (l : List (SlotId × Binding)) (s : State) : Prop :=
  ∃ before b x rest, l = before ++ (b, x) :: rest ∧ Silenced sup x (reachedAfter gap sup before s)

/-! ## Stations -/

/-- The synthesized releases of the buttons of a key map, in ascending order (R29). -/
def releasedInOrder (a : StationId) (m : BitVec 8) (s : State) : State :=
  ((List.finRange 8).filter fun b => m.getLsbD b.val).foldl (fun v b => synthesizedRelease (.station a b) v) s

/-- A station's record replaced, with a STATION report where its state changes (R39). -/
def recorded (a : StationId) (record : StationState) (s : State) : State :=
  let u := { s with stations := s.stations.set a record }
  if (s.stations.get a).state = record.state then u else raise (.station a record.state record.reportedType) u

/-- The turn of a station ends, and the next one begins (R24). -/
def turnEnded (a : StationId) (s : State) : State := { s with turn := (nextServed a s).map (newTurn s) }

/-- The rotation of the station bus (R24). -/
def InRotation (s : State) (a : StationId) : Prop :=
  (s.settings.stations.get a).enabled = true ∧ (s.stations.get a).state ≠ .offline

/-! ## The requests of the control link -/

/-- The KIND and the payload of a command that is a request (section 10.9). -/
def requestOf : Instr → Option (Byte × List Byte)
  | .hello p => some (0x01, p)
  | .status p => some (0x02, p)
  | .cause p => some (0x03, p)
  | .save p => some (0x08, p)
  | .restart p => some (0x09, p)
  | .setFlags p => some (0x10, p)
  | .force p => some (0x11, p)
  | .release p => some (0x12, p)
  | .setAnnunciator p => some (0x13, p)
  | .recallRequest p => some (0x18, p)
  | .drop p => some (0x19, p)
  | .levelRequest p => some (0x1A, p)
  | .clear p => some (0x1B, p)
  | .dropRestart p => some (0x1C, p)
  | .queryCircuit p => some (0x20, p)
  | .queryScene p => some (0x21, p)
  | .queryZone p => some (0x22, p)
  | .queryStation p => some (0x23, p)
  | .queryInputs p => some (0x24, p)
  | .putInput p => some (0x30, p)
  | .putLadder p => some (0x31, p)
  | .putStation p => some (0x32, p)
  | .putBinding p => some (0x33, p)
  | .putScene p => some (0x34, p)
  | .putCircuit p => some (0x35, p)
  | .putZone p => some (0x36, p)
  | .putAnnunciator p => some (0x37, p)
  | .putGeneral p => some (0x38, p)
  | .getInput p => some (0x40, p)
  | .getLadder p => some (0x41, p)
  | .getStation p => some (0x42, p)
  | .getBinding p => some (0x43, p)
  | .getScene p => some (0x44, p)
  | .getCircuit p => some (0x45, p)
  | .getZone p => some (0x46, p)
  | .getAnnunciator p => some (0x47, p)
  | .getGeneral p => some (0x48, p)
  | .powerOn | .resetLine | .contactSample _ _ | .changeAccepted _ _ | .settlingComplete _ _
  | .ladderSample _ _ | .ladderDecodeChange _ _ | .ladderBaseline _ _ | .ladderFaultEntry _ _ | .ladderRecovery _ _
  | .replyWindowOpen | .stateReply _ | .identReply _ | .badReply _ | .replyWindowClose
  | .stationGoesMissing _ | .flash3OverrideEnd _ _ | .holdTimerExpiry _ | .tick | .fadeEnd _
  | .dwellEnd _ | .zeroCrossing _ | .mainsLock _ | .mainsSilenceExpiry | .releaseTimerExpiry _
  | .characterReceived _ _ | .gapTimerExpiry | .silenceTimerExpiry | .transmitFrameEnd | .damagedEntry
  | .unknownKind _ _ | .saveEnd _ | .resetInputAsserted | .lossOfSupply => none

/-- A payload has a length its request's kind requires (section 10.9, R177). -/
def lengthRight : Instr → Bool
  | .hello p | .status p | .cause p | .save p | .restart p | .queryInputs p | .getGeneral p => decide (p.length = 0)
  | .force p | .release p | .setAnnunciator p | .queryCircuit p | .queryScene p | .queryZone p | .getInput p
  | .getLadder p | .getStation p | .getScene p | .getCircuit p | .getZone p | .getAnnunciator p => decide (p.length = 1)
  | .setFlags p | .dropRestart p | .queryStation p | .getBinding p => decide (p.length = 2)
  | .recallRequest p | .drop p | .clear p => decide (p.length = 4)
  | .levelRequest p => decide (p.length = 6)
  | .putInput p => decide (p.length = 10)
  | .putLadder p => decide (p.length = 34)
  | .putStation p => decide (p.length = 22)
  | .putBinding p => decide (p.length = 2) || decide (p.length = 15)
  | .putScene p => decide (19 ≤ p.length) && decide (p.length = 19 + 3 * sceneCount p)
  | .putCircuit p => decide (p.length = 16)
  | .putZone p => decide (p.length = 20)
  | .putAnnunciator p => decide (p.length = 3)
  | .putGeneral p => decide (p.length = 5)
  | .powerOn | .resetLine | .contactSample _ _ | .changeAccepted _ _ | .settlingComplete _ _
  | .ladderSample _ _ | .ladderDecodeChange _ _ | .ladderBaseline _ _ | .ladderFaultEntry _ _ | .ladderRecovery _ _
  | .replyWindowOpen | .stateReply _ | .identReply _ | .badReply _ | .replyWindowClose
  | .stationGoesMissing _ | .flash3OverrideEnd _ _ | .holdTimerExpiry _ | .tick | .fadeEnd _
  | .dwellEnd _ | .zeroCrossing _ | .mainsLock _ | .mainsSilenceExpiry | .releaseTimerExpiry _
  | .characterReceived _ _ | .gapTimerExpiry | .silenceTimerExpiry | .transmitFrameEnd | .damagedEntry
  | .unknownKind _ _ | .saveEnd _ | .resetInputAsserted | .lossOfSupply => true

/-- The kinds that are answered BUSY during a save: SAVE, RESTART and the configuration writes (R177, R193). -/
def busyKinds : List Byte := [0x08, 0x09, 0x30, 0x31, 0x32, 0x33, 0x34, 0x35, 0x36, 0x37, 0x38]

/-- A number within bounds, both inside. -/
def lies (low high n : Nat) : Bool := decide (low ≤ n) && decide (n ≤ high)

/-- A name field of a write within range (R82, R140). -/
def nameInRange (p : List Byte) (i : Nat) : Bool :=
  lies 0 12 (byteAt p i) && (List.range (byteAt p i)).all fun j => lies 32 126 (byteAt p (i + 1 + j))

/-- A source field within range (R57). -/
def sourceInRange (kind unit button : Nat) : Bool :=
  match kind with
  | 1 => lies 1 48 unit && lies 0 0 button
  | 2 => lies 1 8 unit && lies 1 6 button
  | 3 => lies 1 32 unit && lies 1 8 button
  | _ => false

/-- The fields that a binding's action uses, within range (R58). That a fade the action does not use is not checked is the
model's reading (notes/assumptions/10.md). -/
def actionInRange (code target level fade : Nat) : Bool :=
  let fadeInRange := decide (fade = 0xFFFF) || lies 0 3000 fade
  match code with
  | 1 | 2 | 3 => lies 1 96 target && fadeInRange
  | 4 => lies 1 128 target && lies 0 1000 level && fadeInRange
  | 5 => lies 1 128 target && fadeInRange
  | 6 | 7 => lies 1 96 target
  | 8 => lies 1 16 target && fadeInRange
  | 9 | 10 | 11 => lies 1 8 target
  | 12 | 13 => lies 1 16 target
  | 14 => true
  | _ => false

/-- An indicator mode and its argument within range (R22). -/
def indicatorInRange (mode argument : Nat) : Bool :=
  match mode with
  | 0 | 1 => true
  | 2 => lies 1 96 argument
  | 3 => lies 1 16 argument
  | 4 => lies 1 8 argument
  | _ => false

/-- The seven windows of a PUT_LADDER within range, the defined ones without overlap (R10, R11). -/
def windowFieldsInRange (p : List Byte) : Bool :=
  (List.range 7).all (fun w =>
    decide (wordAt p (2 + 4 * w) ≤ wordAt p (4 + 4 * w)) && decide (wordAt p (4 + 4 * w) ≤ 1023)) &&
  (List.range 7).all fun v => (List.range 7).all fun w =>
    decide (byteAt p 1 < w) || decide (w ≤ v) || decide (byteAt p 1 < v)
      || decide (wordAt p (4 + 4 * v) < wordAt p (2 + 4 * w)) || decide (wordAt p (4 + 4 * w) < wordAt p (2 + 4 * v))

/-- Every field of a request of the right length names a number or a code within its range (R177, order 5): the field checks
of each request, at the places that section 10.9 gives them. -/
def fieldsInRange : Instr → Bool
  | .force p | .release p | .queryZone p | .getZone p => lies 1 16 (byteAt p 0)
  | .queryScene p | .getScene p => lies 1 96 (byteAt p 0)
  | .queryCircuit p | .getCircuit p => lies 1 128 (byteAt p 0)
  | .getInput p => lies 1 48 (byteAt p 0)
  | .getStation p => lies 1 32 (byteAt p 0)
  | .getLadder p | .getAnnunciator p => lies 1 8 (byteAt p 0)
  | .getBinding p => lies 1 512 (wordAt p 0)
  | .queryStation p => lies 1 32 (byteAt p 0) && lies 0 1 (byteAt p 1)
  | .recallRequest p | .drop p => lies 1 96 (byteAt p 0) && lies 0 3 (byteAt p 1)
  | .levelRequest p | .clear p => lies 1 128 (byteAt p 0) && lies 0 3 (byteAt p 1)
  | .putInput p =>
    lies 1 48 (byteAt p 0) && lies 0 1 (byteAt p 1) && lies 0 1 (byteAt p 2) && lies 0 1 (byteAt p 3)
      && lies 0 3 (byteAt p 4) && lies 0 1 (byteAt p 5) && lies 0 1 (byteAt p 6) && lies 0 1 (byteAt p 7)
      && lies 0 1 (byteAt p 8) && lies 3 30 (byteAt p 9) && (decide (byteAt p 1 = 0) || decide (41 ≤ byteAt p 0))
  | .putLadder p =>
    lies 1 8 (byteAt p 0) && lies 1 6 (byteAt p 1) && windowFieldsInRange p && lies 2 8 (byteAt p 30)
      && lies 1 16 (byteAt p 31) && lies 3 30 (byteAt p 32) && lies 0 1 (byteAt p 33)
  | .putStation p =>
    lies 1 32 (byteAt p 0) && lies 0 1 (byteAt p 1) && lies 1 15 (byteAt p 2) && lies 1 16 (byteAt p 3)
      && lies 3 30 (byteAt p 4) && lies 0 1 (byteAt p 5)
      && (List.range 8).all fun b => indicatorInRange (byteAt p (6 + 2 * b)) (byteAt p (7 + 2 * b))
  | .putBinding p =>
    lies 1 512 (wordAt p 0) && (decide (p.length = 2) ||
      sourceInRange (byteAt p 2) (byteAt p 3) (byteAt p 4) && lies 1 5 (byteAt p 5)
        && actionInRange (byteAt p 6) (byteAt p 9) (wordAt p 10) (wordAt p 12) && lies 1 3 (byteAt p 7)
        && lies 1 16 (byteAt p 8) && lies 0 1 (byteAt p 14))
  | .putScene p =>
    lies 1 96 (byteAt p 0) && nameInRange p 1 && lies 0 3000 (wordAt p 14) && lies 0 3000 (wordAt p 16)
      && lies 0 64 (byteAt p 18)
      && (List.range (byteAt p 18)).all fun j => lies 1 128 (byteAt p (19 + 3 * j)) && lies 0 1000 (wordAt p (20 + 3 * j))
  | .putCircuit p =>
    lies 1 128 (byteAt p 0) && lies 0 2 (byteAt p 1) && lies 0 1000 (wordAt p 2) && lies 0 1000 (wordAt p 4)
      && lies 0 1000 (wordAt p 6) && lies 0 3000 (wordAt p 8) && lies 0 1000 (wordAt p 10) && lies 0 1000 (wordAt p 12)
      && lies 0 50 (byteAt p 14) && lies 0 1 (byteAt p 15)
  | .putZone p =>
    lies 1 16 (byteAt p 0) && lies 0 4095 (wordAt p 1) && lies 0 1 (byteAt p 3)
      && decide (byteAt p 4 ∈ [0, 5, 10, 30, 60, 120]) && lies 10 1000 (wordAt p 5) && nameInRange p 7
  | .putAnnunciator p =>
    lies 1 8 (byteAt p 0) && lies 0 6 (byteAt p 1) && (decide (byteAt p 1 ≠ 1) || lies 1 16 (byteAt p 2))
      && (decide (byteAt p 1 ≠ 2) || lies 1 8 (byteAt p 2))
  | .putGeneral p => lies 0 1 (byteAt p 0) && lies 0 127 (byteAt p 2)
  | .hello _ | .status _ | .cause _ | .save _ | .restart _ | .setFlags _ | .setAnnunciator _ | .dropRestart _
  | .queryInputs _ | .getGeneral _ => true
  | .powerOn | .resetLine | .contactSample _ _ | .changeAccepted _ _ | .settlingComplete _ _
  | .ladderSample _ _ | .ladderDecodeChange _ _ | .ladderBaseline _ _ | .ladderFaultEntry _ _ | .ladderRecovery _ _
  | .replyWindowOpen | .stateReply _ | .identReply _ | .badReply _ | .replyWindowClose
  | .stationGoesMissing _ | .flash3OverrideEnd _ _ | .holdTimerExpiry _ | .tick | .fadeEnd _
  | .dwellEnd _ | .zeroCrossing _ | .mainsLock _ | .mainsSilenceExpiry | .releaseTimerExpiry _
  | .characterReceived _ _ | .gapTimerExpiry | .silenceTimerExpiry | .transmitFrameEnd | .damagedEntry
  | .unknownKind _ _ | .saveEnd _ | .resetInputAsserted | .lossOfSupply => true

/-- A PUT_SCENE whose entry list names one circuit twice (R83; R177, order 6). -/
def NamesTwice (c : Instr) : Prop :=
  ∃ p i j, c = .putScene p ∧ i < j ∧ j < byteAt p 18 ∧ byteAt p (19 + 3 * i) = byteAt p (19 + 3 * j)

/-- A request for what its class or its source may not have (R1, R59, R108, R110; R177, order 7): a claim of class LOCAL or
EGRESS from the host; a contact input that an EGRESS binding has as its source, written without egress-capable or with
function LADDER (notes/assumptions/11.md); an EGRESS binding on a source that is no egress-capable input of function
CONTACT. -/
def IsDenied (c : Instr) (s : State) : Prop :=
  (∃ p, (c = .recallRequest p ∨ c = .drop p ∨ c = .levelRequest p ∨ c = .clear p) ∧
    (byteAt p 1 = 1 ∨ byteAt p 1 = 3)) ∨
  (∃ p, ∃ i : InputId, ∃ b x, c = .putInput p ∧ byteAt p 0 = i.val + 1 ∧ s.settings.bindings.get b = some x ∧
    x.cls = .egress ∧ x.source = .contact i ∧ (byteAt p 7 = 0 ∨ byteAt p 1 = 1)) ∨
  ∃ p, c = .putBinding p ∧ p.length = 15 ∧ byteAt p 7 = 3 ∧ ∀ i : InputId, byteAt p 2 = 1 → byteAt p 3 = i.val + 1 →
    (s.settings.inputs.get i).egressCapable = false ∨ (s.settings.inputs.get i).function = .ladder

/-- A PUT_SCENE with more entries than the pool has free, the scene's own counted as free (R84; R177, order 8). -/
def HasNoRoom (c : Instr) (s : State) : Prop :=
  ∃ p, ∃ sc : SceneId, c = .putScene p ∧ byteAt p 0 = sc.val + 1 ∧
    2048 + (s.settings.scenes.get sc).entries.length < byteAt p 18 + s.settings.entryCount

/-- A request stands at the head of the pending queue of a running part, and the reply slot is empty: it is the one taken
next (R176). -/
structure RequestHeads (kind : Byte) (payload : List Byte) (s : State) : Prop where
  running : s.power = .running
  slot : s.replySlot = none
  head : s.requests.head? = some (.request kind payload)

/-- The state with the head of the pending queue taken and being carried out (R176). -/
def State.taken (s : State) : State :=
  { s with requests := s.requests.tail, carrying := true, ahead := some s.reports.length }

/-- The state once a reply is in the reply slot and the transmitter has chosen (R178, R180). -/
def replied (kind : Byte) (status : Status) (results : List Byte) (s : State) : State :=
  serve { s with
    replySlot := some { kind := kind + 0x80, payload := status.code :: results }, carrying := false, ahead := none }

/-! ## Starts -/

/-- What a start leaves under the configuration loaded: the values that the sections "at power-on and reset line" of the
chapters give (R6, R19, R41, R54, R94, R115, R135, R139, R153, R155, R164, R166, R171, R175, R187, R194). -/
structure FreshStart (c : Settings) (t : State) : Prop where
  running : t.power = .running
  settings : t.settings = c
  idleStore : t.saving = false
  inputs : ∀ i, t.inputs.get i =
    { filtered := .opened, pending := none,
      conditioning := if (c.inputs.get i).function = .contact then .settling none (c.inputs.get i).assertAtStart else .stopped }
  ladders : ∀ ch, t.ladders.get ch =
    if (c.inputs.get (inputOfChannel ch)).function = .ladder then LadderState.started else LadderState.off
  stations : ∀ a, t.stations.get a =
    StationState.started (if (c.stations.get a).enabled then .identifying else .offline)
  turn : t.turn = (firstServed t).map (newTurn t)
  trackers : ∀ src, t.tracker src = Tracker.idle
  lists : ∀ n, (t.circuits.get n).claims = []
  outputs : ∀ n, (t.circuits.get n).output = 0
  requests : ∀ n, (t.circuits.get n).request = false
  relays : ∀ n, (t.circuits.get n).relay.state = false ∧ (t.circuits.get n).relay.dwellRunning = false ∧
    (t.circuits.get n).relay.waiting = .none
  /-- A rest level is reached at once by a default fade of 0, and headed for from 0 by any other (R135). -/
  levels : ∀ n, (t.circuits.get n).level = if (c.circuits.get n).defaultFade = 0 then (c.circuits.get n).rest else 0
  fades : ∀ n, (t.circuits.get n).fade =
    if (c.circuits.get n).defaultFade = 0 ∨ (c.circuits.get n).rest = 0 then none
    else some { start := 0, target := (c.circuits.get n).rest, steps := 5 * (c.circuits.get n).defaultFade, count := 0 }
  ramps : t.ramps = []
  line : t.frameCount = 0 ∧ t.refresh = none
  mains : t.mains = { state := .absent, previous := none, lastInterval := 0, lockCount := 0, silence := none }
  zones : ∀ z, t.zones.get z = { state := if called t z then .held else .free, force := false, timer := none }
  flags : t.flags = c.general.flagStart
  enables : t.enables = c.general.enableStart
  link : t.framer = .idle ∧ t.requests = [] ∧ t.replySlot = none ∧ t.carrying = false ∧ t.ahead = none ∧ t.sending = none
  reports : t.reports = [] ∧ t.lost = 0
  silence : t.silence =
    if c.general.silenceTimeout = 0 then .stopped else .running (c.general.silenceTimeout * 1000)

end Sys2Proof.Machine
end

