-- ==== Sys2Proof/Certificates/Slice0/Obligations.lean ====
section
/-! DEFINITION. The statements for the provers. A command that is "possible only in a case" is stated in that case; a
request is stated where it stands at the head of the pending queue (`RequestHeads`). `serve` is the transmitter's choice at
the end of every step (R180), and `replied` is a reply placed in the slot followed by that choice. -/

open Sys2Proof Sys2Proof.Machine

/-! ## The machine -/

/-- A step takes the command at the front of the queue and runs it with the queue's rest. The idling on an empty queue is
the model's choice (notes/assumptions/18.md). -/
def Obligations.StepRunsFrontCommand : Prop :=
  ∀ (c : Instr) (rest : List Instr) (s : State),
    (s.pending = c :: rest → step s = exec c { s with pending := rest }) ∧ (s.pending = [] → step s = .next s)

/-- Every command answers a next state in every state, and leaves the queue of waiting commands alone. That a command
whose cause is absent answers the state unchanged is the model's choice (notes/assumptions/1.md). -/
def Obligations.EveryCommandCompletes : Prop :=
  ∀ (c : Instr) (s : State), ∃ t, exec c s = .next t ∧ t.pending = s.pending

/-- The state after reset: every block at the start value of its chapter under the factory defaults, the image invalid,
POWER_ON and STORE_EMPTY set, no command waiting, every zone FREE and every circuit at rest at level 0. That it is the state
of a part with an invalid image at its first power-on is read from the manual by inference (DEDUCED,
notes/assumptions/5.md). -/
def Obligations.ResetHoldsTheStartValues : Prop :=
  FreshStart Settings.defaults State.reset ∧ State.reset.image = none ∧
    State.reset.causes = { powerOn := true, resetLine := false, restart := false, storeEmpty := true } ∧
    State.reset.pending = [] ∧ (∀ z, (State.reset.zones.get z).state = .free) ∧
    ∀ n, (State.reset.circuits.get n).level = 0 ∧ (State.reset.circuits.get n).fade = none

/-- R195, R196: power-on and reset line load the image, or the defaults where it is invalid, and every block starts at the
values of its chapter; the reset-cause record is set as R196's table gives. That both act on a part held in reset, and
that POWER_ON acts in every state of the supply, is the model's choice (notes/assumptions/16.md). -/
def Obligations.StartsGiveEveryBlockItsStartValues : Prop :=
  ∀ s : State,
    (∃ t, exec .powerOn s = .next t ∧ FreshStart (s.image.getD Settings.defaults) t ∧ t.image = s.image ∧
      t.causes = { powerOn := true, resetLine := false, restart := false, storeEmpty := s.image.isNone }) ∧
    (s.power ≠ .unpowered →
      ∃ t, exec .resetLine s = .next t ∧ FreshStart (s.image.getD Settings.defaults) t ∧ t.image = s.image ∧
        t.causes = { s.causes with resetLine := true, storeEmpty := s.causes.storeEmpty || s.image.isNone })

/-- R166, R194, R196: an asserted reset input cuts the lines and a save off and keeps the rest; a loss of supply keeps the
image alone. The values shown for what is lost are the model's choice (notes/assumptions/16.md), so none is stated but
the cleared reset-cause record of R196; that a stopped part takes no command but a start or a loss of supply is the
model's choice too. -/
def Obligations.StoppedPartTakesNoCommand : Prop :=
  ∀ s : State,
    (s.power = .running → exec .resetInputAsserted s =
      .next { s with power := .heldInReset, refresh := none, sending := none, saving := false }) ∧
    (s.power ≠ .unpowered →
      ∃ t, exec .lossOfSupply s = .next t ∧ t.power = .unpowered ∧ t.image = s.image ∧ t.saving = false ∧
        t.refresh = none ∧ t.sending = none ∧
        t.causes = { powerOn := false, resetLine := false, restart := false, storeEmpty := false }) ∧
    (∀ c : Instr, s.power ≠ .running → c ≠ .powerOn → c ≠ .resetLine → c ≠ .lossOfSupply → exec c s = .next s) ∧
    (s.power = .unpowered → exec .resetLine s = .next s ∧ exec .lossOfSupply s = .next s)

/-! ## Contact inputs -/

/-- R2, R6, R12, R13, R15, R16: a contact sample that neither accepts a change nor completes a settling run, and a ladder
sample that changes neither the stable decode nor the channel state, count and do nothing else. -/
def Obligations.SamplesAreCounted : Prop :=
  (∀ (i : InputId) (raw : Contact) (s : State), s.power = .running →
    let cs := s.settings.inputs.get i
    let st := s.inputs.get i
    (cs.function = .ladder → exec (.contactSample i raw) s = .next (serve s)) ∧
    (cs.function = .contact → st.conditioning = .running → raw = st.filtered →
      exec (.contactSample i raw) s = .next (serve (s.setInput i { st with pending := none }))) ∧
    (cs.function = .contact → st.conditioning = .running → raw ≠ st.filtered →
      st.pending.getD 0 + 1 < cs.noise.samples →
      exec (.contactSample i raw) s = .next (serve (s.setInput i { st with pending := some (st.pending.getD 0 + 1) }))) ∧
    (∀ (level : Contact) (n : Nat) (a : Bool), cs.function = .contact → st.conditioning = .settling (some (level, n)) a →
      (if level = raw then n + 1 else 1) < cs.noise.samples →
      exec (.contactSample i raw) s = .next (serve (s.setInput i
        { st with conditioning := .settling (some (raw, if level = raw then n + 1 else 1)) a }))) ∧
    (∀ a : Bool, cs.function = .contact → st.conditioning = .settling none a → 1 < cs.noise.samples →
      exec (.contactSample i raw) s =
        .next (serve (s.setInput i { st with conditioning := .settling (some (raw, 1)) a })))) ∧
  ∀ (ch : ChannelId) (reading : Nat) (s : State), s.power = .running →
    let ls := s.settings.ladders.get ch
    let l := s.ladders.get ch
    (l.state = .inactive → exec (.ladderSample ch reading) s = .next (serve s)) ∧
    (∀ w, l.state = .normal → windowOf ls reading = some w →
      (if l.candidate = some w then l.candidateRun + 1 else 1) < ls.stability ∨
        (l.baselinePending = false ∧ w = l.decode) →
      exec (.ladderSample ch reading) s = .next (serve (s.setLadder ch
        { l with candidate := some w, candidateRun := if l.candidate = some w then l.candidateRun + 1 else 1,
                 indeterminateRun := 0 }))) ∧
    (l.state = .normal → windowOf ls reading = none → l.indeterminateRun + 1 < 100 →
      exec (.ladderSample ch reading) s = .next (serve (s.setLadder ch
        { l with candidate := none, candidateRun := 0, indeterminateRun := l.indeterminateRun + 1 }))) ∧
    (l.state = .fault → (if windowOf ls reading = some 0 then l.recoveryRun + 1 else 0) < ls.stability →
      exec (.ladderSample ch reading) s = .next (serve (s.setLadder ch
        { l with recoveryRun := if windowOf ls reading = some 0 then l.recoveryRun + 1 else 0 })))

/-- R2, R3, R44 to R50: the sample at which a change is accepted gives the input its new filtered level, and hands a press or
a release to its tracker where the input participates, and does nothing else; no other tracker moves. What a tracker makes of an arrival is the
second half: a press of one in IDLE or LATENT captures the zones that are not FREE, records the kind and hold time of the
source, starts the hold timer of a MOMENTARY gesture and dispatches PRESS; a release dispatches RELEASE, followed by TAP for
a MOMENTARY gesture in DOWN and by HOLD_RELEASE for one in HELD; a synthesized release dispatches RELEASE, followed by
HOLD_RELEASE in HELD, and nothing in LATENT; a baseline takes IDLE to LATENT. Any other arrival changes nothing. -/
def Obligations.AcceptedChangeReachesTheTracker : Prop :=
  (∀ (i : InputId) (raw : Contact) (s : State),
    let cs := s.settings.inputs.get i
    let st := s.inputs.get i
    let old := s.tracker (.contact i)
    s.power = .running → cs.function = .contact → st.conditioning = .running → raw ≠ st.filtered →
    cs.noise.samples ≤ st.pending.getD 0 + 1 →
    let changed := s.setInput i { st with filtered := raw, pending := none }
    ∃ t, exec (.changeAccepted i raw) s = .next t ∧ exec (.contactSample i raw) s = .next t ∧
      (cs.participate = false → t = serve changed) ∧
      (cs.participate = true → raw = cs.sense.pressLevel → t = serve (press (.contact i) changed)) ∧
      (cs.participate = true → raw ≠ cs.sense.pressLevel → t = serve (release (.contact i) changed)) ∧
      t.inputs = s.inputs.set i { st with filtered := raw, pending := none } ∧
      (cs.participate = false → t.tracker (.contact i) = old) ∧
      (cs.participate = true → raw = cs.sense.pressLevel → old.state = .idle ∨ old.state = .latent →
        t.tracker (.contact i) =
          { state := .down, kind := some cs.kind,
            timer := if cs.kind = .momentary then some (cs.holdTime * 100) else none,
            holdTime := some cs.holdTime, suppression := heldZones s }) ∧
      (cs.participate = true → raw = cs.sense.pressLevel → old.state = .down ∨ old.state = .held →
        t.tracker (.contact i) = old) ∧
      (cs.participate = true → raw ≠ cs.sense.pressLevel → (t.tracker (.contact i)).state = .idle) ∧
      OtherTrackersKept [.contact i] s t) ∧
  ∀ (src : Source) (s : State),
    let old := s.tracker src
    let kind : GestureKind := match src with
      | .contact i => (s.settings.inputs.get i).kind
      | .ladder _ _ | .station _ _ => .momentary
    let hold : Nat := match src with
      | .contact i => (s.settings.inputs.get i).holdTime
      | .ladder ch _ => (s.settings.ladders.get ch).holdTime
      | .station a _ => (s.settings.stations.get a).holdTime
    let ends (triggers : List Trigger) : State :=
      (triggers.foldl (fun u trg => dispatch src trg old.suppression u)
        (s.setTracker src { old with timer := none })).setTracker src Tracker.idle
    match old.state with
    | .idle | .latent =>
      press src s = dispatch src .press (heldZones s) (s.setTracker src
        { state := .down, kind := some kind, timer := if kind = .momentary then some (hold * 100) else none,
          holdTime := some hold, suppression := heldZones s }) ∧
      release src s = (if old.state = .latent then ends [.release] else s) ∧
      synthesizedRelease src s = (if old.state = .latent then ends [] else s) ∧
      baseline src s = if old.state = .latent then s else s.setTracker src Tracker.latent
    | .down =>
      press src s = s ∧ (old.kind = some .momentary → release src s = ends [.release, .tap]) ∧
      (old.kind = some .maintained → release src s = ends [.release]) ∧ synthesizedRelease src s = ends [.release] ∧
      baseline src s = s
    | .held =>
      press src s = s ∧ release src s = ends [.release, .holdRelease] ∧
      synthesizedRelease src s = ends [.release, .holdRelease] ∧ baseline src s = s

/-- R6, R7, R9, R45, R48, R50: a completed settling run gives the input its level, and hands on what R6's table gives, with
assert-at-start as the start read it (a write of it during the settling touches nothing): a participating input at its press
level hands its tracker a press with it on and a baseline with it off, in whatever state the tracker is (LATENT after a warm
restart, R7); any other input hands on nothing. The press takes a tracker in IDLE or LATENT to DOWN; the baseline takes one
in IDLE to LATENT and dispatches nothing; any other tracker stays. -/
def Obligations.SettlingCompletesAsTheTableGives : Prop :=
  ∀ (i : InputId) (raw : Contact) (run : Option (Contact × Nat)) (asserts : Bool) (s : State),
    let cs := s.settings.inputs.get i
    let old := s.tracker (.contact i)
    s.power = .running → cs.function = .contact → (s.inputs.get i).conditioning = .settling run asserts →
    cs.noise.samples ≤ (match run with | some (level, n) => if level = raw then n + 1 else 1 | none => 1) →
    ∃ t, exec (.settlingComplete i raw) s = .next t ∧ exec (.contactSample i raw) s = .next t ∧
      t.inputs = s.inputs.set i { filtered := raw, pending := none, conditioning := .running } ∧
      (let settled := s.setInput i { filtered := raw, pending := none, conditioning := .running }
      (cs.participate = false ∨ raw ≠ cs.sense.pressLevel → t = serve settled) ∧
      (cs.participate = true → raw = cs.sense.pressLevel → asserts = false →
        t = serve (baseline (.contact i) settled)) ∧
      (cs.participate = true → raw = cs.sense.pressLevel → asserts = true →
        t = serve (press (.contact i) settled))) ∧
      (cs.participate = true → raw = cs.sense.pressLevel → asserts = false →
        (old.state = .idle → t.tracker (.contact i) = Tracker.latent) ∧
        (old.state ≠ .idle → t.tracker (.contact i) = old) ∧ t.circuits = s.circuits ∧ t.zones = s.zones) ∧
      (cs.participate = true → raw = cs.sense.pressLevel → asserts = true →
        old.state = .down ∨ old.state = .held → t.tracker (.contact i) = old) ∧
      (cs.participate = true → raw = cs.sense.pressLevel → asserts = true →
        old.state = .idle ∨ old.state = .latent → t.tracker (.contact i) =
          { state := .down, kind := some cs.kind,
            timer := if cs.kind = .momentary then some (cs.holdTime * 100) else none,
            holdTime := some cs.holdTime, suppression := heldZones s }) ∧
      OtherTrackersKept [.contact i] s t

/-! ## Ladder channels -/

/-- R10, R11: under settings that a write admits, a reading lies in at most one defined window, and that is the one the
decoder finds. -/
def Obligations.ReadingsFindTheOneWindow : Prop :=
  ∀ (ls : LadderSettings) (reading : Nat) (w : Fin 7), ls.ok = true →
    (windowOf ls reading = some w.val ↔
      w.val ≤ ls.buttonCount ∧ (ls.windows.get w).low ≤ reading ∧ reading ≤ (ls.windows.get w).high)

/-- R12, R52: the sample that brings the run of a new window to the stability count changes the stable decode, hands on a
release of the old button and then, on the state that release left, with all it dispatched, a press of the new one; no
other tracker moves. -/
def Obligations.DecodeChangeReleasesThenPresses : Prop :=
  ∀ (ch : ChannelId) (reading w : Nat) (s : State),
    let ls := s.settings.ladders.get ch
    let l := s.ladders.get ch
    let run := if l.candidate = some w then l.candidateRun + 1 else 1
    s.power = .running → l.state = .normal → windowOf ls reading = some w → ls.stability ≤ run →
    l.baselinePending = false → w ≠ l.decode →
    ∃ t, exec (.ladderDecodeChange ch reading) s = .next t ∧ exec (.ladderSample ch reading) s = .next t ∧
      t.ladders = s.ladders.set ch
        { l with decode := w, candidate := some w, candidateRun := run, indeterminateRun := 0 } ∧
      (∃ changed released pressed,
        changed = s.setLadder ch
          { l with decode := w, candidate := some w, candidateRun := run, indeterminateRun := 0 } ∧
        (∀ b : LadderButton, l.decode = b.val + 1 → released = release (.ladder ch b) changed) ∧
        ((∀ b : LadderButton, l.decode ≠ b.val + 1) → released = changed) ∧
        (∀ b : LadderButton, w = b.val + 1 → pressed = press (.ladder ch b) released) ∧
        ((∀ b : LadderButton, w ≠ b.val + 1) → pressed = released) ∧ t = serve pressed) ∧
      (∀ b : LadderButton, l.decode = b.val + 1 → (t.tracker (.ladder ch b)).state = .idle) ∧
      (∀ b : LadderButton, w = b.val + 1 → (s.tracker (.ladder ch b)).state = .idle →
        (t.tracker (.ladder ch b)).state = .down ∧ (t.tracker (.ladder ch b)).kind = some .momentary ∧
        (t.tracker (.ladder ch b)).timer = some (ls.holdTime * 100)) ∧
      (∀ src, (∀ b : LadderButton, src = .ladder ch b → l.decode ≠ b.val + 1 ∧ w ≠ b.val + 1) →
        t.tracker src = s.tracker src)

/-- R15, R48: the first stable decode of a channel is a baseline: where it is a button, that button's tracker is handed a
baseline, which takes it from IDLE to LATENT, and nothing is dispatched; nothing else changes. -/
def Obligations.FirstDecodeIsABaseline : Prop :=
  ∀ (ch : ChannelId) (reading w : Nat) (s : State),
    let ls := s.settings.ladders.get ch
    let l := s.ladders.get ch
    let run := if l.candidate = some w then l.candidateRun + 1 else 1
    s.power = .running → l.state = .normal → windowOf ls reading = some w → ls.stability ≤ run →
    l.baselinePending = true →
    ∃ t, exec (.ladderBaseline ch reading) s = .next t ∧ exec (.ladderSample ch reading) s = .next t ∧
      t.ladders = s.ladders.set ch
        { l with decode := w, candidate := some w, candidateRun := run, indeterminateRun := 0,
                 baselinePending := false } ∧
      (let taken := s.setLadder ch
        { l with decode := w, candidate := some w, candidateRun := run, indeterminateRun := 0, baselinePending := false }
      (∀ b : LadderButton, w = b.val + 1 → t = serve (baseline (.ladder ch b) taken)) ∧
      ((∀ b : LadderButton, w ≠ b.val + 1) → t = serve taken)) ∧
      (∀ b : LadderButton, w = b.val + 1 → (s.tracker (.ladder ch b)).state = .idle →
        t.tracker (.ladder ch b) = Tracker.latent) ∧
      (∀ src, (s.tracker src).state ≠ .idle ∨ (∀ b : LadderButton, src = .ladder ch b → w ≠ b.val + 1) →
        t.tracker src = s.tracker src) ∧
      t.circuits = s.circuits ∧ t.zones = s.zones ∧ t.flags = s.flags ∧ t.ramps = s.ramps

/-- R13, R16, R18, R49: a hundredth indeterminate sample in a row takes a channel to FAULT with a synthesized release of its
button, a full recovery run takes it back to NORMAL with no event, and each time a LADDER report is raised and the channel's
home zone re-evaluated, in that order by the model's reading (DEDUCED, notes/assumptions/8.md). -/
def Obligations.LadderFaultAndRecovery : Prop :=
  ∀ (ch : ChannelId) (reading : Nat) (s : State),
    let ls := s.settings.ladders.get ch
    let l := s.ladders.get ch
    s.power = .running →
    (l.state = .normal → windowOf ls reading = none → 100 ≤ l.indeterminateRun + 1 →
      ∃ t, exec (.ladderFaultEntry ch reading) s = .next t ∧ exec (.ladderSample ch reading) s = .next t ∧
        (∃ released, (∀ b : LadderButton, l.decode = b.val + 1 → released = synthesizedRelease (.ladder ch b) s) ∧
          ((∀ b : LadderButton, l.decode ≠ b.val + 1) → released = s) ∧
          t = serve (reevaluate ls.homeZone (raise (.ladder ch .fault) (released.setLadder ch
            { state := .fault, decode := 0, candidate := none, candidateRun := 0, indeterminateRun := 0,
              baselinePending := false, recoveryRun := 0 })))) ∧
        t.ladders = s.ladders.set ch
          { state := .fault, decode := 0, candidate := none, candidateRun := 0, indeterminateRun := 0,
            baselinePending := false, recoveryRun := 0 } ∧
        (∀ b : LadderButton, l.decode = b.val + 1 → (t.tracker (.ladder ch b)).state = .idle) ∧
        (∀ src, (∀ b : LadderButton, src = .ladder ch b → l.decode ≠ b.val + 1) → t.tracker src = s.tracker src) ∧
        ((t.zones.get ls.homeZone).state = .held ↔ called t ls.homeZone = true)) ∧
    (l.state = .fault → ls.stability ≤ (if windowOf ls reading = some 0 then l.recoveryRun + 1 else 0) →
      ∃ t, exec (.ladderRecovery ch reading) s = .next t ∧ exec (.ladderSample ch reading) s = .next t ∧
        t = serve (reevaluate ls.homeZone (raise (.ladder ch .normal) (s.setLadder ch
          { state := .normal, decode := 0, candidate := none, candidateRun := 0, indeterminateRun := 0,
            baselinePending := false, recoveryRun := 0 }))) ∧
        t.ladders = s.ladders.set ch
          { state := .normal, decode := 0, candidate := none, candidateRun := 0, indeterminateRun := 0,
            baselinePending := false, recoveryRun := 0 } ∧
        (∀ src, t.tracker src = s.tracker src) ∧ t.circuits = s.circuits ∧ t.flags = s.flags ∧
        ((t.zones.get ls.homeZone).state = .held ↔ called t ls.homeZone = true))

/-! ## Stations -/

/-- R25, R37: the end of a request opens a reply window of 4 ms, and the end of a FLASH3 override ends it; neither does
anything else. -/
def Obligations.BusTimersDoNothingElse : Prop :=
  ∀ s : State, s.power = .running →
    (∀ t : Turn, s.turn = some t → t.window = none →
      exec .replyWindowOpen s = .next (serve { s with turn := some { t with window := some 4 } })) ∧
    (∀ (a : StationId) (b : ButtonId), ((s.stations.get a).overrides.get b).isSome = true →
      exec (.flash3OverrideEnd a b) s = .next (serve (s.setStation a
        { s.stations.get a with overrides := (s.stations.get a).overrides.set b none })))

/-- R24 to R27, R39, R40, R142, R143: in a turn that no write has deferred, a good IDENT reply records the type code and the
button count and sends the station to ACTIVE, with its baseline pending, or to MISMATCH; a change of state raises a STATION
report, then the home zone is re-evaluated (that order is DEDUCED, notes/assumptions/8.md), and the next turn begins. R24:
the station served next is the lowest-addressed one of the rotation above the one just served, or else the lowest-addressed
one; the rotation holds the enabled stations that are not OFFLINE. -/
def Obligations.IdentReplyIdentifiesTheStation : Prop :=
  (∀ (tn : Turn) (r : BusReply) (ty n : Byte) (s : State),
    let a := tn.address
    let cs := s.settings.stations.get a
    let st := s.stations.get a
    s.power = .running → s.turn = some tn → tn.window.isSome = true → tn.request = .ident → tn.deferred = false →
    r.address = addressByte a → r.kind = 0x82 → r.data = [ty, n] → ty ≠ 0 → n.toNat ≤ 8 →
    r.address ^^^ r.kind ^^^ ty ^^^ n ^^^ r.check = 0 →
    ∃ t, exec (.identReply r) s = .next t ∧
      t = serve (turnEnded a (reevaluate cs.homeZone (recorded a
        (if ty.toNat = cs.expectedType then
          { st with state := .active, reportedType := ty, reportedButtons := n.toNat, misses := 0, keyMap := 0,
                    baselinePending := true }
        else { st with state := .mismatch, reportedType := ty, reportedButtons := n.toNat }) s))) ∧
      (ty.toNat = cs.expectedType → t.stations = s.stations.set a
        { st with state := .active, reportedType := ty, reportedButtons := n.toNat, misses := 0, keyMap := 0,
                  baselinePending := true }) ∧
      (ty.toNat ≠ cs.expectedType → t.stations = s.stations.set a
        { st with state := .mismatch, reportedType := ty, reportedButtons := n.toNat }) ∧
      (∀ src, t.tracker src = s.tracker src) ∧
      ((t.zones.get cs.homeZone).state = .held ↔ called t cs.homeZone = true) ∧
      t.turn = (nextServed a t).map (newTurn t)) ∧
  ∀ (a : StationId) (s : State),
    (∀ b, nextServed a s = some b ↔ InRotation s b ∧
      ((a < b ∧ ∀ c, a < c → c < b → ¬InRotation s c) ∨
        ((∀ c, a < c → ¬InRotation s c) ∧ ∀ c, c < b → ¬InRotation s c))) ∧
    (nextServed a s = none ↔ ∀ b, ¬InRotation s b) ∧
    (∀ b, firstServed s = some b ↔ InRotation s b ∧ ∀ c, c < b → ¬InRotation s c) ∧
    (firstServed s = none ↔ ∀ b, ¬InRotation s b)

/-- R26, R28, R31, R32: a good STATE reply zeroes the miss count and becomes the last good key map. The first is a
baseline. Any later one is compared button by button, in ascending order up to the reported count: a bit gone to 1 is a
press, a bit gone to 0 a release, an equal bit nothing, and no other tracker moves. -/
def Obligations.KeyMapsBecomePressesAndReleases : Prop :=
  ∀ (tn : Turn) (p : Table Pattern 8) (r : BusReply) (m : Byte) (s : State),
    let a := tn.address
    let st := s.stations.get a
    let new := m &&& buttonsUpTo st.reportedButtons
    s.power = .running → s.turn = some tn → tn.window.isSome = true → tn.request = .poll p → tn.deferred = false →
    r.address = addressByte a → r.kind = 0x81 → r.data = [m] → r.address ^^^ r.kind ^^^ m ^^^ r.check = 0 →
    ∃ t, exec (.stateReply r) s = .next t ∧ t.turn = (nextServed a t).map (newTurn t) ∧
      (st.baselinePending = true → t = serve (turnEnded a
        (((List.finRange 8).filter fun b => new.getLsbD b.val).foldl (fun v b => baseline (.station a b) v)
          (s.setStation a { st with misses := 0, baselinePending := false, keyMap := new })))) ∧
      (st.baselinePending = false → ∃ u,
        u = ((List.finRange 8).filter fun b => decide (b.val < st.reportedButtons)).foldl (fun v b =>
            if st.keyMap.getLsbD b.val = new.getLsbD b.val then v
            else if new.getLsbD b.val then press (.station a b) v else release (.station a b) v)
          (s.setStation a { st with misses := 0 }) ∧
        t = serve (turnEnded a (u.setStation a { u.stations.get a with keyMap := new }))) ∧
      (t.stations.get a).misses = 0 ∧ (t.stations.get a).keyMap = new ∧ (t.stations.get a).baselinePending = false ∧
      (t.stations.get a).state = st.state ∧ (∀ a', a' ≠ a → t.stations.get a' = s.stations.get a') ∧
      (∀ src, (∀ b, src ≠ .station a b) → t.tracker src = s.tracker src) ∧
      (st.baselinePending = true → t.circuits = s.circuits ∧ t.zones = s.zones ∧ t.flags = s.flags ∧
        ∀ b : ButtonId, t.tracker (.station a b) =
          if new.getLsbD b.val = true ∧ (s.tracker (.station a b)).state = .idle then Tracker.latent
          else s.tracker (.station a b)) ∧
      (st.baselinePending = false → ∀ b : ButtonId,
        (st.reportedButtons ≤ b.val → t.tracker (.station a b) = s.tracker (.station a b)) ∧
        (b.val < st.reportedButtons → new.getLsbD b.val = st.keyMap.getLsbD b.val →
          t.tracker (.station a b) = s.tracker (.station a b)) ∧
        (b.val < st.reportedButtons → new.getLsbD b.val = false → st.keyMap.getLsbD b.val = true →
          (t.tracker (.station a b)).state = .idle) ∧
        (b.val < st.reportedButtons → new.getLsbD b.val = true → st.keyMap.getLsbD b.val = false →
          ((s.tracker (.station a b)).state = .idle ∨ (s.tracker (.station a b)).state = .latent →
            (t.tracker (.station a b)).state = .down) ∧
          ((s.tracker (.station a b)).state = .down ∨ (s.tracker (.station a b)).state = .held →
            t.tracker (.station a b) = s.tracker (.station a b))))

/-- R25, R28, R30, R34: a failed turn short of the third miss raises one tally, and the miss count if it was a POLL; the
key map, every tracker and every other station stay. R23, R24, R29, R39, R40: a turn during which its station was written
ends, whatever its outcome, with the transition that waited: a synthesized release, in ascending order, of the buttons of an
ACTIVE station's key map, its running record cleared, the state IDENTIFYING or OFFLINE by the settings as they stand, a
STATION report where it differs, and the home zone re-evaluated; the outcome counts for the tallies, and for nothing else.
That a good IDENT reply in such a turn records neither type code nor button count is the model's reading (DEDUCED,
notes/assumptions/25.md), and so is the order of the report and the re-evaluation (DEDUCED, notes/assumptions/8.md). -/
def Obligations.FailedAndDeferredTurnsEnd : Prop :=
  (∀ (tn : Turn) (r : BusReply) (s : State),
    let a := tn.address
    let st := s.stations.get a
    let misses := match tn.request with
      | .poll _ => st.misses + 1
      | .ident => st.misses
    s.power = .running → s.turn = some tn → tn.window.isSome = true → tn.deferred = false →
    (∀ p, tn.request = .poll p → st.misses + 1 < 3) →
    (badFor tn r = true → ∃ t, exec (.badReply r) s = .next t ∧
      t = serve (turnEnded a (s.setStation a
        { st with badReplies := min 65535 (st.badReplies + 1), misses := misses })) ∧
      t.stations = s.stations.set a { st with badReplies := min 65535 (st.badReplies + 1), misses := misses } ∧
      (∀ src, t.tracker src = s.tracker src) ∧ t.zones = s.zones ∧ t.turn = (nextServed a t).map (newTurn t)) ∧
    (∃ t, exec .replyWindowClose s = .next t ∧
      t = serve (turnEnded a (s.setStation a
        { st with noReplies := min 65535 (st.noReplies + 1), misses := misses })) ∧
      t.stations = s.stations.set a { st with noReplies := min 65535 (st.noReplies + 1), misses := misses } ∧
      (∀ src, t.tracker src = s.tracker src) ∧ t.zones = s.zones ∧ t.turn = (nextServed a t).map (newTurn t))) ∧
  ∀ (tn : Turn) (r : BusReply) (s : State),
    let a := tn.address
    let st := s.stations.get a
    let cs := s.settings.stations.get a
    let written (st : StationState) : StationState :=
      { st with
        state := if cs.enabled then .identifying else .offline, keyMap := 0, baselinePending := false, misses := 0,
        overrides := Table.replicate 8 none, uncounted := false }
    let ends (c : Instr) (counted : StationState) : Prop := ∃ t, exec c s = .next t ∧
      (let released :=
        if st.state = .active then releasedInOrder a st.keyMap (s.setStation a counted) else s.setStation a counted
      t = serve (turnEnded a (reevaluate cs.homeZone (recorded a (written counted) released)))) ∧
      t.stations = s.stations.set a (written counted) ∧
      (∀ b : ButtonId, st.state = .active → st.keyMap.getLsbD b.val = true → (t.tracker (.station a b)).state = .idle) ∧
      (∀ src, (∀ b : ButtonId, src = .station a b → st.state ≠ .active ∨ st.keyMap.getLsbD b.val = false) →
        t.tracker src = s.tracker src) ∧
      ((t.zones.get cs.homeZone).state = .held ↔ called t cs.homeZone = true) ∧
      t.turn = (nextServed a t).map (newTurn t)
    s.power = .running → s.turn = some tn → tn.window.isSome = true → tn.deferred = true →
    (∀ p, tn.request = .poll p → badFor tn r = false → ends (.stateReply r) st) ∧
    (tn.request = .ident → badFor tn r = false → ends (.identReply r) st) ∧
    (badFor tn r = true → ends (.badReply r) { st with badReplies := min 65535 (st.badReplies + 1) }) ∧
    ends .replyWindowClose { st with noReplies := min 65535 (st.noReplies + 1) }

/-- R28, R29, R34, R39, R40, R49: the third miss hands a synthesized release of every button held in the last good key map, in
ascending order, empties the map, sends the station to MISSING with its STATION report, and has its home zone re-evaluated
(in that order by the model's reading, DEDUCED, notes/assumptions/8.md); no tracker of another source moves. -/
def Obligations.ThirdMissMakesTheStationMissing : Prop :=
  ∀ (tn : Turn) (p : Table Pattern 8) (r : Option BusReply) (s : State),
    let a := tn.address
    let st := s.stations.get a
    s.power = .running → s.turn = some tn → tn.window.isSome = true → tn.request = .poll p → tn.deferred = false →
    3 ≤ st.misses + 1 → (∀ x, r = some x → badFor tn x = true) →
    ∃ t, exec (.stationGoesMissing r) s = .next t ∧ exec (match r with
        | some x => .badReply x
        | none => .replyWindowClose) s = .next t ∧
      (∃ released, released = releasedInOrder a st.keyMap (s.setStation a
          (if r.isSome then { st with badReplies := min 65535 (st.badReplies + 1) }
          else { st with noReplies := min 65535 (st.noReplies + 1) })) ∧
        t = serve (turnEnded a (reevaluate (s.settings.stations.get a).homeZone (recorded a
          { released.stations.get a with keyMap := 0, baselinePending := false, misses := 3, state := .missing }
          released)))) ∧
      (t.stations.get a).state = .missing ∧ (t.stations.get a).misses = 3 ∧ (t.stations.get a).keyMap = 0 ∧
      (t.stations.get a).baselinePending = false ∧
      (t.stations.get a).badReplies = (if r.isSome then min 65535 (st.badReplies + 1) else st.badReplies) ∧
      (t.stations.get a).noReplies = (if r.isSome then st.noReplies else min 65535 (st.noReplies + 1)) ∧
      (∀ a', a' ≠ a → t.stations.get a' = s.stations.get a') ∧
      (∀ b : ButtonId, st.keyMap.getLsbD b.val = true → (t.tracker (.station a b)).state = .idle) ∧
      (∀ src, (∀ b : ButtonId, src = .station a b → st.keyMap.getLsbD b.val = false) → t.tracker src = s.tracker src) ∧
      ((t.zones.get (s.settings.stations.get a).homeZone).state = .held ↔
        called t (s.settings.stations.get a).homeZone = true)

/-- R189, R36 to R38: a request on the bus starts with 55h, and its bytes after that come to 00h under exclusive-or. A POLL
has 8 bytes and carries each button's pattern code in four bits; a new turn's POLL carries OFF above the reported button
count, FLASH3 while the override runs, and otherwise what R36's table gives for the button's mode: OFF, ON, or the pattern
of the scene's status (R91), of the zone's state or of the show flag, as it stands. -/
def Obligations.BusRequestsAreFramedAndCarryThePatterns : Prop :=
  (∀ t : Turn, t.requestBytes.head? = some 0x55 ∧ t.requestBytes.tail.foldl (· ^^^ ·) 0 = (0 : Byte)) ∧
  (∀ (t : Turn) (p : Table Pattern 8), t.request = .poll p → t.requestBytes.length = 8 ∧
    t.requestBytes.getD 2 0 = 0x01 ∧
    ∀ b : ButtonId, (t.requestBytes.getD (3 + b.val / 2) 0).toNat / 16 ^ (b.val % 2) % 16 = (p.get b).code) ∧
  (∀ t : Turn, t.request = .ident → t.requestBytes.length = 4 ∧ t.requestBytes.getD 2 0 = 0x02) ∧
  ∀ (s : State) (a : StationId),
    ((s.stations.get a).state ≠ .active → (newTurn s a).request = .ident) ∧
    ((s.stations.get a).state = .active → ∃ p, (newTurn s a).request = .poll p ∧ ∀ b : ButtonId, p.get b =
      if (s.stations.get a).reportedButtons ≤ b.val then .off
      else if ((s.stations.get a).overrides.get b).isSome then .flash3
      else match (s.settings.stations.get a).indicators.get b with
        | .off => .off
        | .on => .on
        | .scene sc => (match sceneStatus s sc with
          | .full => .on
          | .fading => .fast
          | .partially => .slow
          | .inactive => .off)
        | .zone z => (match (s.zones.get z).state with
          | .free => .off
          | .held => .on
          | .releasing => .slow
          | .awaiting => .fast)
        | .flag f => if s.flags.getLsbD f.val then .on else .off)

/-! ## Gestures and bindings -/

/-- R46: the hold timer's expiry takes a tracker in DOWN to HELD with its timer stopped and hands HOLD to the dispatcher,
which reaches no other tracker, and nothing but what gestures reach where at most one binding matches; where more match, it
reaches what may come between two of them too, and what that leaves alone is the model's choice (DESIGN CHOICE,
notes/assumptions/28.md). A tracker in HELD raises no further HOLD; that an expiry there answers the state unchanged is the
model's choice (DESIGN CHOICE, notes/assumptions/1.md). What a binding that runs then does, on whatever trigger (R69 to R79), is the second half, action by action: the scene's claims
placed in the order of its entries, or withdrawn from every circuit; the source's claim placed or withdrawn; the zone's
LOCAL claims withdrawn; the flag set, cleared or toggled, with the zones that mask it following; the force set, or the zone
released by R145's table; nothing, for REPORT_ONLY; and for RAISE and LOWER a ramp, that of the same binding replaced where
it stands, a new one added in slot order below 16, or refused with a report at 16 (R125). -/
def Obligations.HoldExpiryDispatchesAndActionsAct : Prop :=
  (∀ (src : Source) (s : State), s.power = .running →
    ((s.tracker src).state = .down → (s.tracker src).timer.isSome = true →
      let held := { s.tracker src with state := .held, timer := none }
      let u := dispatch src .hold (s.tracker src).suppression (s.setTracker src held)
      exec (.holdTimerExpiry src) s = .next (serve u) ∧ u.tracker src = held ∧
        OtherTrackersKept [src] s u ∧ OnlyDispatched src s u ∧ (AtMostOneMatches src .hold s → OnlyGestures s u)) ∧
    ((s.tracker src).state = .held → exec (.holdTimerExpiry src) s = .next s)) ∧
  (∀ (b : SlotId) (x : Binding) (s : State),
    let u := runAction b x s
    let circuit (n : CircuitId) := s.settings.circuits.get n
    let scene (sc : SceneId) := s.settings.scenes.get sc
    let owned (o : Owner) (cl : Claim) : Bool := decide (cl.owner = o) && decide (cl.cls = x.cls.claim)
    let on (sc : SceneId) (fade : Option Nat) : Prop := u = (scene sc).entries.foldl
      (fun v e => place e.circuit { owner := .scene sc, cls := x.cls.claim, level := e.level, zone := some x.zone }
        (fade.getD (scene sc).onFade) v) s
    let off (sc : SceneId) (fade : Option Nat) : Prop := u = { s with circuits := u.circuits } ∧
      ∀ n, u.circuits.get n =
        (s.circuits.get n).losing (owned (.scene sc)) (circuit n).rest (fade.getD (scene sc).offFade)
    let ramp (sc : SceneId) (direction : Direction) : Ramp :=
      { binding := b, scene := sc, cls := x.cls, zone := x.zone, direction := direction,
        rate := (s.settings.zones.get x.zone).raiseRate, accumulator := 0 }
    let flag (f : FlagId) (v : Bool) : Prop :=
      u = { s with flags := u.flags, zones := u.zones, ramps := u.ramps, reports := u.reports, lost := u.lost } ∧
      (s.flags.getLsbD f.val = v → u = s) ∧ u.flags.getLsbD f.val = v ∧
      (∀ g : FlagId, g ≠ f → u.flags.getLsbD g.val = s.flags.getLsbD g.val) ∧
      (∀ z, (s.settings.zones.get z).mask.getLsbD f.val = true → s.flags.getLsbD f.val ≠ v →
        ((u.zones.get z).state = .held ↔ called u z = true)) ∧
      (∀ z, (s.settings.zones.get z).mask.getLsbD f.val = false → u.zones.get z = s.zones.get z)
    match x.action with
    | .sceneOn sc fade => on sc fade
    | .sceneOff sc fade => off sc fade
    | .sceneToggle sc fade =>
      ((∃ n, (s.circuits.get n).claims.any (owned (.scene sc)) = true) → off sc fade) ∧
        ((∀ n, (s.circuits.get n).claims.any (owned (.scene sc)) = false) → on sc fade)
    | .level c l fade =>
      u = place c { owner := .source x.source, cls := x.cls.claim, level := l, zone := some x.zone }
        (fade.getD (circuit c).defaultFade) s
    | .levelOff c fade =>
      u = s.setCircuit c ((s.circuits.get c).losing (owned (.source x.source)) (circuit c).rest
        (fade.getD (circuit c).defaultFade))
    | .raise sc =>
      u = requestRamp (ramp sc .up) ((scene sc).entries.foldl
        (fun v e => if (v.circuits.get e.circuit).claims.any (owned (.scene sc)) then v
          else place e.circuit { owner := .scene sc, cls := x.cls.claim, level := (v.circuits.get e.circuit).level,
                                 zone := some x.zone } 0 v) s)
    | .lower sc => u = requestRamp (ramp sc .down) s
    | .zoneClear z fade => u = { s with circuits := u.circuits } ∧
      ∀ n, u.circuits.get n =
        (s.circuits.get n).losing (fun cl => decide (cl.cls = .loc) && decide (cl.zone = some z)) (circuit n).rest
          (fade.getD (circuit n).defaultFade)
    | .flagSet f => flag f true
    | .flagClear f => flag f false
    | .flagToggle f => flag f (!s.flags.getLsbD f.val)
    | .holdForce z =>
      ((s.zones.get z).force = true → u = s) ∧
      ((s.zones.get z).force = false → OnlyZones s u ∧ (u.zones.get z).state = .held ∧ (u.zones.get z).force = true ∧
        (∀ y, y ≠ z → u.zones.get y = s.zones.get y) ∧
        u.ramps = if (s.zones.get z).state = .held then s.ramps
          else s.ramps.filter fun r => !(decide (r.cls = .loc) && decide (r.zone = z)))
    | .holdRelease z =>
      let zs := s.settings.zones.get z
      let old := s.zones.get z
      let next : ZoneStateName := match old.state with
        | .held => if activeMasked s z ≠ 0 then .held
          else if zs.mode = .manual ∨ zs.delay = 0 then .free else .releasing
        | .awaiting => .free
        | .releasing => .releasing
        | .free => .free
      OnlyZones s u ∧ u.ramps = s.ramps ∧ u.zones = s.zones.set z
        { state := next, force := false,
          timer := if next = old.state then old.timer
            else if next = .releasing then some (zs.delay * 1000) else none }
    | .reportOnly => u = s) ∧
  ∀ (r : Ramp) (s : State), RampTableOk s →
    (∀ l1 q l2, s.ramps = l1 ++ q :: l2 → q.binding = r.binding → requestRamp r s = { s with ramps := l1 ++ r :: l2 }) ∧
    ((∀ q ∈ s.ramps, q.binding ≠ r.binding) → s.ramps.length < 16 → ∃ l1 l2, s.ramps = l1 ++ l2 ∧
      (∀ q ∈ l1, q.binding < r.binding) ∧ (∀ q ∈ l2, r.binding < q.binding) ∧
      requestRamp r s = { s with ramps := l1 ++ r :: l2 }) ∧
    ((∀ q ∈ s.ramps, q.binding ≠ r.binding) → s.ramps.length = 16 →
      requestRamp r s = raise (.rampRefused r.binding r.scene) s)

/-- R62 to R68, R85, R107, R148: a RELEASE first ends every ramp of the source's bindings. Then the matching bindings are reached
in slot order: a LOCAL binding whose zone was captured at the press, or is not FREE when it is reached, does nothing, and each
other one runs, on the state in which it is reached. Between two of them further commands may come, whose effects the later one
sees: which, and in what order, is a free value (DESIGN CHOICE, notes/assumptions/28.md); nothing comes before the first or after
the last. A request that comes is taken as its own command takes it, but for a PUT_BINDING and a RESTART, which wait (R62), and a
PUT_INPUT, PUT_LADDER and PUT_STATION, which wait by the model's choice, as do the samples, the key maps and the hold timers
that hand arrivals on; a tick steps the ramps, the fades and the outputs and
sends its frame, and counts no time; a release timer's end, a crossing, the silence of the mains or of the link, a turn that ends
at rest and a channel's fault or recovery have their own effects; what holds one of these back is the model's choice (DESIGN
CHOICE, notes/assumptions/28.md). The EVENT report is raised last, with the outcome NONE, RUN, SUPPRESSED or MIXED, and where some
binding was suppressed, alone or among others that ran, the button of a station starts its FLASH3 override. A trigger whose one
matching binding is so suppressed reaches no claim, zone, flag or new ramp, and one whose matching bindings all have captured
zones reaches nothing but what comes between them. -/
def Obligations.DispatchRunsAllButHeldLocalBindings : Prop :=
  (∀ (src : Source) (trg : Trigger) (sup : List ZoneId) (s : State), AtMostOneMatches src trg s →
    (∀ b x, s.settings.bindings.get b = some x → x.enabled = true → x.source = src → x.trigger = trg →
      x.cls = .loc ∧ (x.zone ∈ sup ∨ (s.zones.get x.zone).state ≠ .free)) →
    let t := dispatch src trg sup s
    let matched := ∃ b x, s.settings.bindings.get b = some x ∧ x.enabled = true ∧ x.source = src ∧ x.trigger = trg
    t.circuits = s.circuits ∧ t.zones = s.zones ∧ t.flags = s.flags ∧ (∀ r ∈ t.ramps, r ∈ s.ramps) ∧
    (reportsEvents s src = true → s.settings.general.reportMask.getLsbD 0 = true → s.reports.length < 32 →
      (matched → t.reports = s.reports ++ [.event src trg .suppressed]) ∧
      (¬matched → t.reports = s.reports ++ [.event src trg .none])) ∧
    (∀ a b, src = .station a b → matched → (t.stations.get a).overrides.get b = some 1500)) ∧
  (∀ (src : Source) (trg : Trigger) (sup : List ZoneId) (s : State), (∃ l, MatchingInOrder src trg s l) ∧
    ∀ l, MatchingInOrder src trg s l →
      let own (r : Ramp) : Bool := decide ((s.settings.bindings.get r.binding).map (·.source) = some src)
      let start := if trg = .release then { s with ramps := s.ramps.filter fun r => !own r } else s
      let gap := betweenBindings src
      let reached := afterBindings gap sup l start
      let reporting : Bool := match src with
        | .contact i => (s.settings.inputs.get i).report
        | .ladder ch _ => (s.settings.ladders.get ch).report
        | .station a _ => (s.settings.stations.get a).report
      let runs := SomeRuns gap sup l start
      let held := SomeIsSuppressed gap sup l start
      (∃ outcome : DispatchOutcome,
        (l = [] → outcome = .none) ∧ (runs → ¬held → outcome = .run) ∧ (held → ¬runs → outcome = .suppressed) ∧
        (runs → held → outcome = .mixed) ∧
        let told := if reporting then raise (.event src trg outcome) reached else reached
        (∀ a b, src = .station a b → held → dispatch src trg sup s = told.setStation a
          { told.stations.get a with overrides := (told.stations.get a).overrides.set b (some 1500) }) ∧
        ((∀ a b, src ≠ .station a b) ∨ ¬held → dispatch src trg sup s = told)) ∧
      (∀ before b x rest, l = before ++ (b, x) :: rest →
        let found := reachedAfter gap sup before start
        let left := afterBindings gap sup (before ++ [(b, x)]) start
        (Silenced sup x found → left = found) ∧ (¬Silenced sup x found → left = runAction b x found) ∧
        (rest = [] → reached = left) ∧ (rest ≠ [] → reachedAfter gap sup (before ++ [(b, x)]) start = gap left)) ∧
      ((∀ bx ∈ l, bx.2.cls = .loc ∧ bx.2.zone ∈ sup) → reached = l.tail.foldl (fun v _ => gap v) start)) ∧
  ∀ (src : Source) (v : State), v.power = .running →
    (let begun : State := { v with
        draws := v.draws + 1, ahead := if v.ahead = some v.reports.length then none else v.ahead }
      let ended := (Config.comesBetween v.draws).foldl (comes src) begun
      betweenBindings src v = { ended with
        ahead := if v.carrying = true ∧ ended.ahead = none then some ended.reports.length else ended.ahead }) ∧
    (∀ c, (∃ k p, requestOf c = some (k, p) ∧ k ∈ waitingKinds) ∨
        (∃ i raw, c = .contactSample i raw ∨ c = .changeAccepted i raw ∨ c = .settlingComplete i raw) ∨
        (∃ ch n, c = .ladderSample ch n ∨ c = .ladderDecodeChange ch n ∨ c = .ladderBaseline ch n) ∨
        (∃ r, c = .stateReply r) ∨ (∃ o, c = .holdTimerExpiry o) → comes src v c = v) ∧
    (∀ c k p, requestOf c = some (k, p) → k ∉ waitingKinds → v.carrying = false → ofStation src = false ∨ k ≠ 0x23 →
      exec c v = .next (comes src v c)) ∧
    (v.carrying = false → exec .damagedEntry v = .next (comes src v .damagedEntry) ∧
      ∀ k p, exec (.unknownKind k p) v = .next (comes src v (.unknownKind k p))) ∧
    comes src v .tick = serve (startRefresh (stepCircuits (stepRamps v))) ∧
    (∀ c, (∃ z, c = .releaseTimerExpiry z) ∨ (∃ n, c = .dwellEnd n) ∨ (∃ m, c = .zeroCrossing m ∨ c = .mainsLock m) ∨
        c = .mainsSilenceExpiry ∨ c = .silenceTimerExpiry ∨ c = .transmitFrameEnd ∨ c = .gapTimerExpiry ∨
        (∃ b e, c = .characterReceived b e) ∨ (∃ w, c = .saveEnd w) →
      exec c v = .next (comes src v c)) ∧
    (ofStation src = false → exec .replyWindowOpen v = .next (comes src v .replyWindowOpen) ∧
      ∀ a b, exec (.flash3OverrideEnd a b) v = .next (comes src v (.flash3OverrideEnd a b))) ∧
    (∀ c, (∃ r, c = .identReply r ∨ c = .badReply r) ∨ (∃ r, c = .stationGoesMissing r) ∨ c = .replyWindowClose →
      ofStation src = false → turnAtRest v = true → exec c v = .next (comes src v c)) ∧
    ∀ (ch : ChannelId) (n : Nat), ofLadder src = false → v.carrying = false →
      exec (.ladderRecovery ch n) v = .next (comes src v (.ladderRecovery ch n)) ∧
      (channelAtRest ch v = true → exec (.ladderFaultEntry ch n) v = .next (comes src v (.ladderFaultEntry ch n)))

/-! ## Claims -/

/-- R98 to R101, R105, R120: a placement on a list in order replaces the claim of its key, or is inserted below four claims, or
evicts the last claim, always at the front of its class group, and the circuit heads for its new target; or it is refused
and leaves the circuit as it was. An eviction and a refusal raise their CLAIM report, and nothing else raises one. A
circuit that heads for a target equal to its aim changes nothing; for one equal to its level alone, it ends its fade where
it stands; for any other it takes the level at once with a fade time of 0, and otherwise starts a fade of N = 5 F steps
from its level as it stands. -/
def Obligations.PlacementFollowsTheThreeRules : Prop :=
  (∀ (c : CircuitId) (n : Claim) (fade : Nat) (s : State),
    let old := s.circuits.get c
    ClaimListOk old.claims →
    let t := place c n fade s
    (holdsKey n.key old.claims = false → old.claims.length = 4 →
      (∀ last, old.claims.getLast? = some last → n.cls.rank < last.cls.rank) → t = raise (.refused c n.key) s) ∧
    (∀ kept evicted, (kept = dropKey n.key old.claims ∧ holdsKey n.key old.claims = true ∧ evicted = none) ∨
        (kept = old.claims ∧ holdsKey n.key old.claims = false ∧ old.claims.length < 4 ∧ evicted = none) ∨
        (∃ last, kept = old.claims.dropLast ∧ holdsKey n.key old.claims = false ∧ old.claims.length = 4 ∧
          old.claims.getLast? = some last ∧ last.cls.rank ≤ n.cls.rank ∧ evicted = some last) →
      ∃ higher lower, higher ++ lower = kept ∧ (∀ a ∈ higher, n.cls.rank < a.cls.rank) ∧
        (∀ a ∈ lower, a.cls.rank ≤ n.cls.rank) ∧
        let u := s.setCircuit c
          ({ old with claims := higher ++ n :: lower }.headFor
            (match higher with
              | [] => n.level
              | e :: _ => e.level) fade)
        t = match evicted with
          | none => u
          | some last => raise (.evicted c last.key) u)) ∧
  ∀ (c : Circuit) (target fade : Nat),
    let aim := match c.fade with
      | some f => f.target
      | none => c.level
    (target = aim → c.headFor target fade = c) ∧
    (target ≠ aim → target = c.level → c.headFor target fade = { c with fade := none }) ∧
    (target ≠ aim → target ≠ c.level → fade = 0 → c.headFor target fade = { c with level := target, fade := none }) ∧
    (target ≠ aim → target ≠ c.level → fade ≠ 0 → c.headFor target fade =
      { c with fade := some { start := c.level, target := target, steps := 5 * fade, count := 0 } })

/-- R88, R108, R109, R110, R177: LEVEL places a REMOTE claim and answers DONE, or FULL where the placement is refused; CLEAR
withdraws it; RECALL places a scene's claims with zone 0 and DROP withdraws them; each answers DENIED for LOCAL and
EGRESS. -/
def Obligations.HostClaimRequestsAreAnswered : Prop :=
  ∀ (p : List Byte) (cls : ClaimClass) (s : State), ClaimClass.ofCode (byteAt p 1) = some cls →
    (∀ c, RequestHeads 0x1A p s → p.length = 6 → idOf 128 (byteAt p 0) = some c → exec (.levelRequest p) s = .next (
      if cls = .loc ∨ cls = .egress then replied 0x1A .denied [] s.taken
      else
        let claim : Claim := { owner := .remote, cls := cls, level := min (wordAt p 2) 1000, zone := none }
        replied 0x1A (if placementRefused c claim s then .full else .done) []
          (place c claim (min (wordAt p 4) 3000) s.taken))) ∧
    (∀ c, RequestHeads 0x1B p s → p.length = 4 → idOf 128 (byteAt p 0) = some c → exec (.clear p) s = .next (
      if cls = .loc ∨ cls = .egress then replied 0x1B .denied [] s.taken
      else replied 0x1B .done []
        (withdraw c { owner := .remote, cls := cls } (min (wordAt p 2) 3000) s.taken))) ∧
    (∀ sc, RequestHeads 0x18 p s → p.length = 4 → idOf 96 (byteAt p 0) = some sc → exec (.recallRequest p) s = .next (
      if cls = .loc ∨ cls = .egress then replied 0x18 .denied [] s.taken
      else replied 0x18 .done []
        (placeScene sc cls none (if wordAt p 2 = 0xFFFF then none else some (min (wordAt p 2) 3000)) s.taken))) ∧
    (∀ sc, RequestHeads 0x19 p s → p.length = 4 → idOf 96 (byteAt p 0) = some sc → exec (.drop p) s = .next (
      if cls = .loc ∨ cls = .egress then replied 0x19 .denied [] s.taken
      else replied 0x19 .done []
        (withdrawScene sc cls (if wordAt p 2 = 0xFFFF then none else some (min (wordAt p 2) 3000)) s.taken)))

/-- R112: DROP_RESTART withdraws the RESTART claim of every circuit that holds one, with the fade it carries, and is
answered DONE whether or not any did. -/
def Obligations.DropRestartWithdrawsEveryRestartClaim : Prop :=
  ∀ (p : List Byte) (s : State), RequestHeads 0x1C p s → p.length = 2 →
    ∃ u, exec (.dropRestart p) s = .next (replied 0x1C .done [] u) ∧ OnlyClaims s.taken u ∧
      u.reports = s.reports ∧ u.lost = s.lost ∧
      ∀ c, u.circuits.get c =
        let old := s.circuits.get c
        let rest := old.claims.filter fun cl => !(decide (cl.owner = .restart) && decide (cl.cls = .base))
        if rest = old.claims then old
        else { old with claims := rest }.headFor
          (match rest with
            | [] => (s.settings.circuits.get c).rest
            | cl :: _ => cl.level)
          (min (wordAt p 0) 3000)

/-- R110, R182, R183: no runtime request, read, SAVE, CAUSE or RESTART places a claim of class EGRESS or LOCAL: each such
claim there afterwards was there before, unchanged. -/
def Obligations.HostRequestsPlaceNoEgressClaim : Prop :=
  ∀ (c : Instr) (k : Byte) (p : List Byte) (s t : State), requestOf c = some (k, p) → k.toNat < 0x30 →
    exec c s = .next t → ∀ n, ∀ cl ∈ (t.circuits.get n).claims, cl.cls = .egress ∨ cl.cls = .loc →
      cl ∈ (s.circuits.get n).claims

/-- R97, R98 to R100, R113: an EGRESS claim that is effective stays effective under every placement of another class. -/
def Obligations.EgressClaimStaysEffective : Prop :=
  ∀ (c : CircuitId) (n e : Claim) (fade : Nat) (s : State), ClaimListOk (s.circuits.get c).claims →
    (s.circuits.get c).claims.head? = some e → e.cls = .egress → n.cls ≠ .egress →
    ((place c n fade s).circuits.get c).claims.head? = some e ∧ egressActive (place c n fade s) = true ∧
    (∀ cs, ((place c n fade s).circuits.get c).target cs = e.level)

/-! ## Levels -/

/-- R121: at each tick every circuit that has a fade record after the ramps' steps takes one step: k rises by 1 and L
becomes S + trunc((T - S) k / N), truncated toward zero. The level moves monotonically from S to T, stays between them,
reaches T at k = N, where the record is removed, and not before; where the span is smaller than N some step leaves it
unchanged, and where it is larger some step moves it by more than one. -/
def Obligations.FadesFollowTheirLine : Prop :=
  (∀ s : State, s.power = .running → ∃ t, exec .tick s = .next t ∧ ∀ c,
    (t.circuits.get c).level = ((stepRamps s).circuits.get c).fadeStep.level ∧
    (t.circuits.get c).fade = ((stepRamps s).circuits.get c).fadeStep.fade) ∧
  (∀ (c : Circuit) (f : Fade), c.fade = some f → f.count + 1 < f.steps →
    (c.fadeStep.level : Int) = f.start + ((f.target - f.start : Int) * (f.count + 1)).tdiv f.steps ∧
    c.fadeStep.fade = some { f with count := f.count + 1 }) ∧
  (∀ (c : Circuit) (f : Fade), c.fade = some f → f.steps ≤ f.count + 1 →
    c.fadeStep.level = f.target ∧ c.fadeStep.fade = none) ∧
  (∀ (f : Fade), 1 ≤ f.steps → f.levelAt 0 = f.start ∧ f.levelAt f.steps = f.target ∧
    (∀ k, f.start ≠ f.target → k < f.steps → f.levelAt k ≠ f.target) ∧
    (max f.start f.target < min f.start f.target + f.steps → ∃ k < f.steps, f.levelAt (k + 1) = f.levelAt k) ∧
    (min f.start f.target + f.steps < max f.start f.target →
      ∃ k < f.steps, f.levelAt k + 1 < f.levelAt (k + 1) ∨ f.levelAt (k + 1) + 1 < f.levelAt k) ∧
    ∀ j k, j ≤ k → k ≤ f.steps →
      min f.start f.target ≤ f.levelAt k ∧ f.levelAt k ≤ max f.start f.target ∧
      (f.start ≤ f.target → f.levelAt j ≤ f.levelAt k) ∧ (f.target ≤ f.start → f.levelAt k ≤ f.levelAt j))

/-- R126, R127: each tick adds a ramp's rate to its accumulator, takes the quotient by 50 as the step and keeps the remainder,
so the steps of any 50 ticks in a row add up to exactly the rate, and the steps at rates of 50, 10 and 1000 are those the
rule gives; a step of 0 moves no claim and cancels no fade. Any other step moves, on every circuit, the claims of the ramp's
scene and class and no others, in their places: UP by the step to the ramp limit at most, the cap of a dimmed circuit and
1000 of a switched one, a claim at or above the limit staying; DOWN by the step to 0 at the least. Where the effective
claim's level changes, the fade record is removed and L takes that level; elsewhere L and the fade stay, and nothing else
changes. The ramps are taken in the order of their table, and a tick leaves every claim where they leave it. -/
def Obligations.RampStepsAddUpToTheRate : Prop :=
  (∀ s : State, s.power = .running → ∃ t, exec .tick s = .next t ∧ t.ramps = s.ramps.map Ramp.advance ∧
    ∀ c, (t.circuits.get c).claims = ((stepRamps s).circuits.get c).claims) ∧
  (∀ r : Ramp, r.step = (r.accumulator + r.rate) / 50 ∧
    r.advance = { r with accumulator := (r.accumulator + r.rate) % 50 }) ∧
  (∀ r : Ramp, r.accumulator < 50 → ((List.range 50).map fun k => ((Ramp.advance)^[k] r).step).sum = r.rate ∧
    (r.rate = 50 → ∀ k, ((Ramp.advance)^[k] r).step = 1) ∧
    (r.rate = 1000 → ∀ k, ((Ramp.advance)^[k] r).step = 20) ∧
    (r.rate = 10 → r.accumulator = 0 → ∀ k, ((Ramp.advance)^[k] r).step = if k % 5 = 4 then 1 else 0)) ∧
  (∀ (s : State) (r : Ramp), r.step = 0 → stepRamp s r = s) ∧
  (∀ (s : State) (r : Ramp), r.step ≠ 0 → stepRamp s r = { s with circuits := (stepRamp s r).circuits } ∧
    ∀ n, let old := s.circuits.get n
      let limit := match (s.settings.circuits.get n).law with
        | .linear | .square => (s.settings.circuits.get n).cap
        | .switched => 1000
      let moved (cl : Claim) : Claim := if cl.owner = .scene r.scene ∧ cl.cls = r.cls.claim then
          { cl with level := match r.direction with
            | .up => if cl.level < limit then min (cl.level + r.step) limit else cl.level
            | .down => (max ((cl.level : Int) - r.step) 0).toNat }
        else cl
      (∀ cl, old.claims.head? = some cl → (moved cl).level ≠ cl.level → (stepRamp s r).circuits.get n =
        { old with claims := old.claims.map moved, level := (moved cl).level, fade := none }) ∧
      ((∀ cl, old.claims.head? = some cl → (moved cl).level = cl.level) →
        (stepRamp s r).circuits.get n = { old with claims := old.claims.map moved })) ∧
  (∀ s : State, stepRamps s = { s.ramps.foldl stepRamp s with ramps := s.ramps.map Ramp.advance })

/-- R132: at each tick a dimmed circuit's output value is worked out from its clamped level by its law, LINEAR or SQUARE,
rounding half up; both give 0 at 0 and 255 at 1000, and rise with the clamped level. -/
def Obligations.DimmingLawsRoundHalfUp : Prop :=
  (∀ s : State, s.power = .running → ∃ t, exec .tick s = .next t ∧ ∀ c,
    let cs := s.settings.circuits.get c
    let x := t.circuits.get c
    (cs.law = .linear → (x.output : Int) = ⌊(clampLevel cs x.level : ℚ) * 255 / 1000 + 1 / 2⌋) ∧
    (cs.law = .square → (x.output : Int) = ⌊(clampLevel cs x.level : ℚ) ^ 2 * 255 / 1000000 + 1 / 2⌋)) ∧
  linearOutput 0 = 0 ∧ linearOutput 1000 = 255 ∧ squareOutput 0 = 0 ∧ squareOutput 1000 = 255 ∧
  (∀ lc : Nat, (linearOutput lc : Int) = ⌊(lc : ℚ) * 255 / 1000 + 1 / 2⌋ ∧
    (squareOutput lc : Int) = ⌊(lc : ℚ) ^ 2 * 255 / 1000000 + 1 / 2⌋) ∧
  ∀ a b, a ≤ b → linearOutput a ≤ linearOutput b ∧ squareOutput a ≤ squareOutput b

/-- R121, R123, R131, R133, R134, R158, R159, R165, R190: at each tick the relay request is evaluated and handed to the
sequencer, on relay records in order: one that equals the relay state drops what waits; another waits AFTER_DWELL while the
dwell runs, AT_CROSSING with the dwell over, align on and the tracker LOCKED, and is otherwise applied with the dwell begun
afresh. (The time since the last change is the model's own count, notes/assumptions/2.md, and is left open but where it
begins.) Every output value follows its circuit's law, and a refresh frame of 131 characters starts: A5h, the frame count, the 128 output values, and the check that brings the sum after the start code
to a multiple of 256; the frame count rises by 1. Besides the circuits, the ramps and the refresh frame a tick changes
nothing but the remaining times of the timers that run, which are the model's own count (notes/assumptions/2.md): the
settings, the flags and enables, the trackers, stations, mains tracker and zones but for their timers, the request and
report queues, and everything else stay; then the transmitter chooses. A tick leaves every claim where the ramps' steps leave it, and
takes the fade step of every circuit whose record those steps left; the tick at which a circuit's fade ends (FADE_END) leaves its
level at the fade's target with no record. -/
def Obligations.TickStepsFadesAndStartsTheFrame : Prop :=
  ∀ s : State, s.power = .running →
    ∃ t, exec .tick s = .next t ∧ t.frameCount = s.frameCount + 1 ∧
      (∃ u, t = serve u ∧ OnlyLevelsAndTimes s u) ∧
      (RelaysInOrder s → ∀ c, let cs := s.settings.circuits.get c
        let old := (s.circuits.get c).relay
        let x := t.circuits.get c
        (x.request = old.state → x.relay = { old with waiting := .none, elapsed := x.relay.elapsed }) ∧
        (x.request ≠ old.state → old.dwellRunning = true →
          x.relay = { old with waiting := .afterDwell x.request, elapsed := x.relay.elapsed }) ∧
        (x.request ≠ old.state → old.dwellRunning = false → cs.align = true → s.mains.state = .locked →
          x.relay = { old with waiting := .atCrossing x.request, elapsed := x.relay.elapsed }) ∧
        (x.request ≠ old.state → old.dwellRunning = false → cs.align = false ∨ s.mains.state ≠ .locked →
          x.relay = { state := x.request, dwellRunning := decide (cs.minimumDwell ≠ 0), elapsed := 0,
                      waiting := .none })) ∧
      (∀ c, let cs := s.settings.circuits.get c
        let x := t.circuits.get c
        x.output = (match cs.law with
          | .linear => linearOutput (min (max x.level cs.preheat) cs.cap)
          | .square => squareOutput (min (max x.level cs.preheat) cs.cap)
          | .switched => if x.relay.state then 255 else 0) ∧
        x.request = (match cs.law with
          | .linear | .square => false
          | .switched => if cs.onThreshold ≤ x.level then true
            else if cs.offThreshold ≤ cs.onThreshold ∧ cs.offThreshold ≤ x.level then (s.circuits.get c).request
            else false)) ∧
      (∀ c, let x := (stepRamps s).circuits.get c
        (t.circuits.get c).claims = x.claims ∧ (t.circuits.get c).level = x.fadeStep.level ∧
        (t.circuits.get c).fade = x.fadeStep.fade ∧
        ∀ f, x.fade = some f → f.steps ≤ f.count + 1 →
          exec (.fadeEnd c) s = .next t ∧ (t.circuits.get c).level = f.target ∧ (t.circuits.get c).fade = none) ∧
      (s.ramps = [] → (∀ c, (t.circuits.get c).level = (s.circuits.get c).fadeStep.level ∧
        (t.circuits.get c).fade = (s.circuits.get c).fadeStep.fade ∧
        (t.circuits.get c).claims = (s.circuits.get c).claims) ∧
        ∀ c f, (s.circuits.get c).fade = some f → f.steps ≤ f.count + 1 →
          exec (.fadeEnd c) s = .next t ∧ (t.circuits.get c).level = f.target ∧ (t.circuits.get c).fade = none) ∧
      ∃ check : Byte,
        t.refresh = some (0xA5 :: s.frameCount :: ((List.finRange 128).map fun c =>
          BitVec.ofNat 8 (t.circuits.get c).output) ++ [check]) ∧
        (t.refresh.getD []).length = 131 ∧ (t.refresh.getD []).tail.foldl (· + ·) 0 = (0 : Byte)

/-! ## Relays and the mains -/

/-- R157 to R164: while a circuit's dwell runs, no command moves its relay but the dwell's own end, a start, a loss of supply
and a write of the circuit that changes its minimum dwell; and none but these and a warm restart, which starts the dwell
afresh, ends the dwell: that a TICK ends no dwell, whose end is a command of its own, is the model's choice
(notes/assumptions/2.md). Where several bindings match one trigger, the same holds of what comes between two of them
(notes/assumptions/28.md). The dwell's end applies a change that waits for it, or moves it to the next crossing where align
is on and the tracker LOCKED; it changes nothing but that circuit's relay record. (The time since the last change is the
model's own count, notes/assumptions/2.md, and is left open but where it begins.) -/
def Obligations.DwellProtectsTheRelay : Prop :=
  ∀ (n : CircuitId) (s : State), RelaysInOrder s → s.power = .running →
    (s.circuits.get n).relay.dwellRunning = true →
    let spares (c : Instr) : Prop := c ≠ .dwellEnd n ∧ c ≠ .powerOn ∧ c ≠ .resetLine ∧ c ≠ .lossOfSupply ∧
      ∀ p cs, c = .putCircuit p → circuitOf p = some (n, cs) →
        cs.minimumDwell = (s.settings.circuits.get n).minimumDwell
    (∀ c t, spares c → (∀ src trg, AtMostOneMatches src trg s) ∨ (∀ draw, ∀ e ∈ Config.comesBetween draw, spares e) →
      exec c s = .next t →
      (t.circuits.get n).relay.state = (s.circuits.get n).relay.state ∧
      ((∀ p, c ≠ .restart p) → (t.circuits.get n).relay.dwellRunning = true)) ∧
    ∃ t, exec (.dwellEnd n) s = .next t ∧
      t = serve (s.setCircuit n { s.circuits.get n with relay := (t.circuits.get n).relay }) ∧
      (∀ k, k ≠ n → t.circuits.get k = s.circuits.get k) ∧
      ((s.circuits.get n).relay.waiting = .none →
        (t.circuits.get n).relay.state = (s.circuits.get n).relay.state ∧
        (t.circuits.get n).relay.dwellRunning = false ∧ (t.circuits.get n).relay.waiting = .none) ∧
      (∀ b, (s.circuits.get n).relay.waiting = .afterDwell b →
        ((s.settings.circuits.get n).align && mainsLocked s) = false →
        (t.circuits.get n).relay.state = b ∧ (t.circuits.get n).relay.waiting = .none ∧
        (t.circuits.get n).relay.elapsed = 0 ∧
        ((t.circuits.get n).relay.dwellRunning = true ↔ (s.settings.circuits.get n).minimumDwell ≠ 0)) ∧
      (∀ b, (s.circuits.get n).relay.waiting = .afterDwell b →
        ((s.settings.circuits.get n).align && mainsLocked s) = true →
        (t.circuits.get n).relay.state = (s.circuits.get n).relay.state ∧
        (t.circuits.get n).relay.waiting = .atCrossing b ∧ (t.circuits.get n).relay.dwellRunning = false)

/-- R161, R162, R167, R168, R169, R170: a crossing in ABSENT enters ACQUIRING unjudged, and one in ACQUIRING with no previous
crossing (after a write of the nominal frequency) is not judged and becomes the previous one. A crossing at most 40 ms after the last measures its
interval: sixteen in a row inside the lock window lock the tracker (MAINS_LOCK at the sixteenth), one outside starts the count
again, and one outside the keep window takes a LOCKED tracker back to ACQUIRING; the windows are those of R167's table, both
bounds inside. A crossing of a LOCKED tracker applies every relay change that waits for one, also where it unlocks. A change
of the tracker's state raises a MAINS report, and one into or out of LOCKED has every zone that masks MAINS_UNLOCKED
re-evaluated after it (that order is DEDUCED, notes/assumptions/8.md). A moment is an operand of the model
(notes/assumptions/17.md), so only moments not before the last are spoken of. -/
def Obligations.CrossingsLockTheMainsTracker : Prop :=
  ∀ (moment : Nat) (s : State), s.power = .running →
    let m := s.mains
    let lockLow := match s.settings.general.nominal with | .hz50 => 9800 | .hz60 => 8167
    let lockHigh := match s.settings.general.nominal with | .hz50 => 10200 | .hz60 => 8499
    let keepLow := match s.settings.general.nominal with | .hz50 => 9400 | .hz60 => 7833
    let keepHigh := match s.settings.general.nominal with | .hz50 => 10600 | .hz60 => 8833
    let gives (c : Instr) (next : Mains) : Prop := ∃ u : State, u = { s with mains := next, circuits := u.circuits } ∧
      (m.state ≠ .locked → u.circuits = s.circuits) ∧
      (m.state = .locked → ∀ n, u.circuits.get n = { s.circuits.get n with
        relay := match (s.circuits.get n).relay.waiting with
          | .atCrossing b =>
            { state := b, dwellRunning := decide ((s.settings.circuits.get n).minimumDwell ≠ 0), elapsed := 0,
              waiting := .none }
          | .none | .afterDwell _ => (s.circuits.get n).relay }) ∧
      let told := if m.state = next.state then u else raise (.mains next.state next.lastInterval) u
      exec c s = .next (serve (if m.state = .locked ↔ next.state = .locked then told
        else reevaluateWhere (fun z => (s.settings.zones.get z).mask.getLsbD 11) told))
    (m.state = .absent → m.previous = none →
      gives (.zeroCrossing moment)
        { m with state := .acquiring, previous := some moment, lockCount := 0, silence := some 40 }) ∧
    (m.state = .acquiring → m.previous = none →
      gives (.zeroCrossing moment) { m with previous := some moment, silence := some 40 }) ∧
    ∀ p, m.previous = some p → p ≤ moment → moment ≤ p + 40000 →
      let d := moment - p
      let after : Mains := { m with previous := some moment, lastInterval := d, silence := some 40 }
      (m.state = .acquiring → lockLow ≤ d ∧ d ≤ lockHigh → m.lockCount + 1 < 16 →
        gives (.zeroCrossing moment) { after with lockCount := m.lockCount + 1 }) ∧
      (m.state = .acquiring → lockLow ≤ d ∧ d ≤ lockHigh → 16 ≤ m.lockCount + 1 →
        gives (.zeroCrossing moment) { after with state := .locked, lockCount := m.lockCount + 1 } ∧
        gives (.mainsLock moment) { after with state := .locked, lockCount := m.lockCount + 1 }) ∧
      (m.state = .acquiring → d < lockLow ∨ lockHigh < d →
        gives (.zeroCrossing moment) { after with lockCount := 0 }) ∧
      (m.state = .locked → keepLow ≤ d ∧ d ≤ keepHigh → gives (.zeroCrossing moment) after) ∧
      (m.state = .locked → d < keepLow ∨ keepHigh < d →
        gives (.zeroCrossing moment) { after with state := .acquiring, lockCount := 0 })

/-- R158, R161, R162, R168, R170: 40 ms without a crossing take the tracker to ABSENT; each change that waited for a crossing is
applied, with its dwell begun afresh, each that waits for its dwell stays, nothing else of a circuit changes, a MAINS report is raised, and every zone that masks MAINS_UNLOCKED is
re-evaluated where the tracker was LOCKED, after the report (that order is DEDUCED, notes/assumptions/8.md). -/
def Obligations.MainsSilenceAppliesWaitingChanges : Prop :=
  ∀ s : State, s.power = .running → s.mains.state ≠ .absent → s.mains.silence.isSome = true →
    ∃ t, exec .mainsSilenceExpiry s = .next t ∧
      t.mains = { state := .absent, previous := none, lastInterval := s.mains.lastInterval, lockCount := 0,
                  silence := none } ∧
      (∃ u, u = { s with mains := t.mains, circuits := t.circuits } ∧
        let told := raise (.mains .absent s.mains.lastInterval) u
        t = serve (if s.mains.state = .locked then
          reevaluateWhere (fun z => (s.settings.zones.get z).mask.getLsbD 11) told else told)) ∧
      (s.mains.state = .acquiring → t.circuits = s.circuits) ∧
      (s.mains.state = .locked →
        (∀ n, t.circuits.get n = { s.circuits.get n with
          relay := match (s.circuits.get n).relay.waiting with
            | .atCrossing b =>
              { state := b, dwellRunning := decide ((s.settings.circuits.get n).minimumDwell ≠ 0), elapsed := 0,
                waiting := .none }
            | .none | .afterDwell _ => (s.circuits.get n).relay }) ∧
        ∀ z, (s.settings.zones.get z).mask.getLsbD 11 = true →
          ((t.zones.get z).state = .held ↔ called t z = true))

/-! ## Zones, flags, annunciators -/

/-- R144, R150: FORCE sets force and has the zone re-evaluated, which holds it, with a ZONE report where its state changes; it
changes nothing where force is already on; it is answered DONE. -/
def Obligations.ForceHoldsTheZone : Prop :=
  ∀ (p : List Byte) (z : ZoneId) (s : State), RequestHeads 0x11 p s → p.length = 1 → idOf 16 (byteAt p 0) = some z →
    ((s.zones.get z).force = true → exec (.force p) s = .next (replied 0x11 .done [] s.taken)) ∧
    ((s.zones.get z).force = false →
      ∃ u, exec (.force p) s = .next (replied 0x11 .done [] u) ∧ OnlyZones s.taken u ∧
        u = reevaluate z (s.taken.setZone z { s.zones.get z with force := true }) ∧
        (u.zones.get z).state = .held ∧ (u.zones.get z).force = true ∧
        (∀ y, y ≠ z → u.zones.get y = s.zones.get y) ∧
        ((s.zones.get z).state = .held → u.ramps = s.ramps) ∧
        ((s.zones.get z).state ≠ .held →
          u.ramps = s.ramps.filter fun r => !(decide (r.cls = .loc) && decide (r.zone = z))))

/-- R145, R146, R147, R150: RELEASE clears force and moves the zone by R145's table, with a ZONE report where its state changes;
it is answered STILL_HELD where the zone is HELD afterwards and DONE otherwise. A release timer that expires takes its zone
from RELEASING to FREE, with a ZONE report. -/
def Obligations.ReleaseMovesTheZoneByItsTable : Prop :=
  (∀ (p : List Byte) (z : ZoneId) (s : State), RequestHeads 0x12 p s → p.length = 1 → idOf 16 (byteAt p 0) = some z →
    let zs := s.settings.zones.get z
    let old := s.zones.get z
    let next : ZoneStateName := match old.state with
      | .held => if activeMasked s z ≠ 0 then .held
        else if zs.mode = .manual ∨ zs.delay = 0 then .free else .releasing
      | .awaiting => .free
      | .releasing => .releasing
      | .free => .free
    ∃ u, exec (.release p) s = .next (replied 0x12 (if next = .held then .stillHeld else .done) [] u) ∧
      (let moved := { s.taken with zones := u.zones }
      u = if next = old.state then moved else raise (.zone z next false (activeMasked s z)) moved) ∧
      OnlyZones s.taken u ∧ u.ramps = s.ramps ∧ (∀ y, y ≠ z → u.zones.get y = s.zones.get y) ∧
      u.zones.get z =
        { state := next, force := false,
          timer := if next = old.state then old.timer
            else if next = .releasing then some (zs.delay * 1000) else none }) ∧
  ∀ (z : ZoneId) (s : State), s.power = .running → (s.zones.get z).state = .releasing →
    (s.zones.get z).timer.isSome = true →
    ∃ u, exec (.releaseTimerExpiry z) s = .next (serve u) ∧ OnlyZones s u ∧ u.ramps = s.ramps ∧
      u = raise (.zone z .free (s.zones.get z).force (activeMasked s z)) { s with zones := u.zones } ∧
      u.zones = s.zones.set z { state := .free, force := (s.zones.get z).force, timer := none }

/-- R137: SET_FLAGS gives the flags of its mask their values together and leaves the others; every zone that masks a flag
that changed is re-evaluated, in ascending order, and every other zone is as it was. R143, R147, R149, R150: re-evaluation
takes a zone that is called to HELD, with its LOCAL ramps ended; a HELD zone no longer called leaves for AWAITING where its
release mode is MANUAL, for FREE where it is AUTO with a delay of 0, and for RELEASING, with the timer at the full delay, where
it is AUTO with another; each change of state raises a ZONE report of the state entered, the force and the active masked
conditions, last, and where the state stays nothing changes. R142: a zone is called while its force is on or a condition of
its mask is active: the eight flags; STATION_MISSING, while an enabled station of the zone is MISSING or MISMATCH;
LADDER_FAULT, while a channel of the zone is in FAULT; LINK_SILENT; MAINS_UNLOCKED. That a station moved in its own turn is not counted until it fails again is the model's reading (DEDUCED, notes/assumptions/9.md). -/
def Obligations.SetFlagsChangesMaskedFlagsTogether : Prop :=
  (∀ (mask values : Byte) (s : State), RequestHeads 0x10 [mask, values] s →
    ∃ u, exec (.setFlags [mask, values]) s = .next (replied 0x10 .done [] u) ∧
      u = reevaluateWhere (fun z => decide (∃ f : FlagId, (s.settings.zones.get z).mask.getLsbD f.val = true ∧
          u.flags.getLsbD f.val ≠ s.flags.getLsbD f.val)) { s.taken with flags := u.flags } ∧
      u = { s.taken with flags := u.flags, zones := u.zones, ramps := u.ramps, reports := u.reports, lost := u.lost } ∧
      (∀ f : FlagId, u.flags.getLsbD f.val =
        if mask.getLsbD f.val then values.getLsbD f.val else s.flags.getLsbD f.val) ∧
      (∀ z, (∃ f : FlagId, (s.settings.zones.get z).mask.getLsbD f.val = true ∧
          u.flags.getLsbD f.val ≠ s.flags.getLsbD f.val) →
        ((u.zones.get z).state = .held ↔ called u z = true)) ∧
      (∀ z, (∀ f : FlagId, (s.settings.zones.get z).mask.getLsbD f.val = true →
          u.flags.getLsbD f.val = s.flags.getLsbD f.val) → u.zones.get z = s.zones.get z)) ∧
  (∀ (concerned : ZoneId → Bool) (s : State),
    reevaluateWhere concerned s = (List.finRange 16).foldl (fun v z => if concerned z then reevaluate z v else v) s) ∧
  ∀ (z : ZoneId) (s : State),
    (let old := s.zones.get z
    let zs := s.settings.zones.get z
    let next : ZoneStateName := match old.state with
      | .held => if called s z then .held else (match zs.mode with
        | .manual => .awaiting
        | .auto => if zs.delay = 0 then .free else .releasing)
      | .free => if called s z then .held else .free
      | .releasing => if called s z then .held else .releasing
      | .awaiting => if called s z then .held else .awaiting
    (next = old.state → reevaluate z s = s) ∧
    (next ≠ old.state → reevaluate z s = raise (.zone z next old.force (activeMasked s z)) { s with
      zones := s.zones.set z
        { state := next, force := old.force, timer := if next = .releasing then some (zs.delay * 1000) else none }
      ramps := if next = .held then s.ramps.filter fun r => !(decide (r.cls = .loc) && decide (r.zone = z))
        else s.ramps })) ∧
    (called s z = true ↔ (s.zones.get z).force = true ∨ activeMasked s z ≠ 0) ∧
    (∀ f : FlagId, (activeMasked s z).getLsbD f.val = true ↔
      (s.settings.zones.get z).mask.getLsbD f.val = true ∧ s.flags.getLsbD f.val = true) ∧
    ((activeMasked s z).getLsbD 8 = true ↔ (s.settings.zones.get z).mask.getLsbD 8 = true ∧
      ∃ a, (s.settings.stations.get a).enabled = true ∧ (s.settings.stations.get a).homeZone = z ∧
        ((s.stations.get a).state = .missing ∨ (s.stations.get a).state = .mismatch) ∧
        (s.stations.get a).uncounted = false) ∧
    ((activeMasked s z).getLsbD 9 = true ↔ (s.settings.zones.get z).mask.getLsbD 9 = true ∧
      ∃ ch, (s.settings.ladders.get ch).homeZone = z ∧ (s.ladders.get ch).state = .fault) ∧
    ((activeMasked s z).getLsbD 10 = true ↔
      (s.settings.zones.get z).mask.getLsbD 10 = true ∧ s.silence = .expired) ∧
    ((activeMasked s z).getLsbD 11 = true ↔
      (s.settings.zones.get z).mask.getLsbD 11 = true ∧ s.mains.state ≠ .locked)

/-- R153, R154: SET_ANNUNCIATOR replaces all eight enables and is answered DONE, also during a save. Power-on and reset line
give each enable its start value, off where the image is invalid; a write of the start values and a warm restart change no
enable that stands. An output conducts exactly while the part runs, its enable is on and the signal of its function is
true. -/
def Obligations.AnnunciatorEnablesFollowTheHost : Prop :=
  ∀ s : State,
    (∀ a : AnnunciatorId, annunciatorOutput s a = true ↔
      s.power = .running ∧ s.enables.getLsbD a.val = true ∧
      match s.settings.annunciators.get a with
      | .plain => True
      | .zoneHeld z => (s.zones.get z).state ≠ .free
      | .flag f => s.flags.getLsbD f.val = true
      | .egressActive => ∃ c cl, (s.circuits.get c).claims.head? = some cl ∧ cl.cls = .egress
      | .mainsLocked => s.mains.state = .locked
      | .stationFault => ∃ x, (s.stations.get x).state = .missing ∨ (s.stations.get x).state = .mismatch
      | .ladderFault => ∃ ch, (s.ladders.get ch).state = .fault) ∧
    (∀ v : Byte, RequestHeads 0x13 [v] s →
      exec (.setAnnunciator [v]) s = .next (replied 0x13 .done [] { s.taken with enables := v })) ∧
    (∀ c t, c = .powerOn ∨ (c = .resetLine ∧ s.power ≠ .unpowered) → exec c s = .next t →
      t.enables = match s.image with
        | some c => c.general.enableStart
        | none => 0) ∧
    (∀ p t, exec (.putGeneral p) s = .next t → t.enables = s.enables) ∧
    (∀ p t, exec (.restart p) s = .next t → t.enables = s.enables)

/-! ## The control link -/

/-- R172, R173, R188: the framer reads back every frame that the layout of R188 writes: its last character leaves the framer
IDLE and the frame received as a request. -/
def Obligations.FramerReadsEveryFrameBack : Prop :=
  ∀ (f : Frame) (s : State), f.payload.length ≤ 240 → s.framer = .idle →
    f.bytes.foldl (fun s c => takeCharacter c false s) s = receiveEntry (.request f.kind f.payload) s

/-- R172 to R174, R180: what each character does in each state of the framer; the gap timer's expiry abandons the frame; the
silence timer's expiry makes LINK_SILENT active, and every zone that masks it follows its conditions; a frame sent leaves
the transmitter free to choose again. A complete frame whose bytes from LEN to CHECK add up to a multiple of 256 is the
request it spells, and any other is damaged. A valid frame restarts the silence timer, whether or not it is queued; where
LINK_SILENT was active it no longer is, and every zone that masks it follows its conditions. Either entry is appended at the
tail while fewer than 4 wait and discarded otherwise, and a damaged one restarts no timer. -/
def Obligations.CharactersAndLinkTimers : Prop :=
  (∀ (len : Nat) (kind check : Byte) (payload : List Byte) (s : State),
    let sum := len + kind.toNat + (payload.map (·.toNat)).sum + check.toNat
    let entry := entryOf len (kind :: payload ++ [check])
    (sum % 256 = 0 → entry = .request kind payload) ∧ (sum % 256 ≠ 0 → entry = .damaged) ∧
    receiveEntry .damaged s =
      { s with requests := if s.requests.length < 4 then s.requests ++ [.damaged] else s.requests } ∧
    let timeout := s.settings.general.silenceTimeout
    let restarted := { s with silence := if timeout = 0 then .stopped else .running (timeout * 1000) }
    ∃ u, receiveEntry (.request kind payload) s = { u with
        requests := if s.requests.length < 4 then s.requests ++ [.request kind payload] else s.requests } ∧
      (s.silence ≠ .expired → u = restarted) ∧
      (s.silence = .expired → u = reevaluateWhere (fun z => (s.settings.zones.get z).mask.getLsbD 10) restarted ∧
        OnlyZones restarted u ∧
        (∀ z, (s.settings.zones.get z).mask.getLsbD 10 = true → ((u.zones.get z).state = .held ↔ called u z = true)) ∧
        (∀ z, (s.settings.zones.get z).mask.getLsbD 10 = false → u.zones.get z = s.zones.get z))) ∧
  ∀ s : State, s.power = .running →
    (∀ c : Byte,
    exec (.characterReceived c true) s = .next (serve { s with framer := .idle }) ∧
    (s.framer = .idle → exec (.characterReceived c false) s =
      .next (serve (if c = 0xC3 then { s with framer := .awaitLen 20 } else s))) ∧
    (∀ gap, s.framer = .awaitLen gap → exec (.characterReceived c false) s =
      .next (serve { s with framer := if 1 ≤ c.toNat ∧ c.toNat ≤ 241 then .body c.toNat [] 20 else .idle })) ∧
    (∀ len bytes gap, s.framer = .body len bytes gap → bytes.length < len → exec (.characterReceived c false) s =
      .next (serve { s with framer := .body len (bytes ++ [c]) 20 })) ∧
    (∀ len bytes gap, s.framer = .body len bytes gap → len ≤ bytes.length → exec (.characterReceived c false) s =
      .next (serve (receiveEntry (entryOf len (bytes ++ [c])) { s with framer := .idle })))) ∧
    (s.framer ≠ .idle → exec .gapTimerExpiry s = .next (serve { s with framer := .idle })) ∧
    (∀ remaining, s.silence = .running remaining →
      ∃ u, exec .silenceTimerExpiry s = .next (serve u) ∧ OnlyZones { s with silence := .expired } u ∧
        u = reevaluateWhere (fun z => (s.settings.zones.get z).mask.getLsbD 10) { s with silence := .expired } ∧
        (∀ z, (s.settings.zones.get z).mask.getLsbD 10 = true →
          ((u.zones.get z).state = .held ↔ called u z = true)) ∧
        (∀ z, (s.settings.zones.get z).mask.getLsbD 10 = false → u.zones.get z = s.zones.get z)) ∧
    (s.sending.isSome = true → exec .transmitFrameEnd s = .next (serve { s with sending := none }))

/-- R179, R180, R181: a free transmitter starts the waiting reply before any report, and the report at the head otherwise, but
while a request is being carried out only those that stand ahead of its own; whatever comes between two bindings of a dispatch
that a request makes, the reports it has raised stay in the queue. A report is queued while fewer than 32 wait, dropped and counted
up to 255 otherwise, and not raised with its category off. Which commands come between two bindings is a free value (DESIGN CHOICE,
notes/assumptions/28.md). -/
def Obligations.RepliesGoBeforeReports : Prop :=
  ∀ (s : State),
    (∀ f, s.sending = none → s.replySlot = some f →
      serve s = { s with sending := some (.reply f), replySlot := none }) ∧
    (∀ r rest, s.sending = none → s.replySlot = none → s.reports = r :: rest →
      (s.ahead = none → serve s = { s with sending := some (.report r), reports := rest }) ∧
      (∀ n, s.ahead = some (n + 1) → serve s = { s with sending := some (.report r), reports := rest, ahead := some n }) ∧
      (s.ahead = some 0 → serve s = s)) ∧
    (∀ src, s.carrying = true → OwnReportsWait s (betweenBindings src s)) ∧
    (∀ o, s.sending = some o → serve s = s) ∧
    (s.sending = none → s.replySlot = none → s.reports = [] → serve s = s) ∧
    ∀ r : Report,
      (s.settings.general.reportMask.getLsbD r.category.bit = false → raise r s = s) ∧
      (s.settings.general.reportMask.getLsbD r.category.bit = true → s.reports.length < 32 →
        raise r s = { s with reports := s.reports ++ [r] }) ∧
      (s.settings.general.reportMask.getLsbD r.category.bit = true → 32 ≤ s.reports.length →
        raise r s = { s with lost := min 255 (s.lost + 1) })

/-- R177, R178, R193: a request is checked in the order of R177, and the first check that fails gives the reply, which holds
the status alone while the request changes nothing: LENGTH for a wrong length; BUSY for a SAVE, RESTART or configuration
write during a save; RANGE for a field out of its range; DUPLICATE for a PUT_SCENE that names a circuit twice; DENIED for
what the class or the source may not have; FULL for a PUT_SCENE without room in the pool. A request that passes them all is
carried out, with the status DONE, or STILL_HELD of a RELEASE, or FULL of a LEVEL. A damaged entry answers KIND 80h with
FRAME alone, and an unknown kind KIND 80h with KIND and the kind byte. Which field checks a fade that its action does not
use, and which writes of an EGRESS binding's input are denied, are the model's readings (notes/assumptions/10.md,
notes/assumptions/11.md). -/
def Obligations.ChecksTurnRequestsAway : Prop :=
  (∀ (c : Instr) (k : Byte) (p : List Byte) (s : State), requestOf c = some (k, p) → RequestHeads k p s →
    (lengthRight c = false → exec c s = .next (replied k .length [] s.taken)) ∧
    (lengthRight c = true → s.saving = true → k ∈ busyKinds → exec c s = .next (replied k .busy [] s.taken)) ∧
    (lengthRight c = true → (s.saving = true → k ∉ busyKinds) →
      (fieldsInRange c = false → exec c s = .next (replied k .range [] s.taken)) ∧
      (fieldsInRange c = true → NamesTwice c → exec c s = .next (replied k .duplicate [] s.taken)) ∧
      (fieldsInRange c = true → ¬NamesTwice c → IsDenied c s → exec c s = .next (replied k .denied [] s.taken)) ∧
      (fieldsInRange c = true → ¬NamesTwice c → ¬IsDenied c s → HasNoRoom c s →
        exec c s = .next (replied k .full [] s.taken)) ∧
      (fieldsInRange c = true → ¬NamesTwice c → ¬IsDenied c s → ¬HasNoRoom c s →
        ∃ status results u, exec c s = .next (replied k status results u) ∧
          (status = .done ∨ (status = .stillHeld ∧ k = 0x12) ∨ (status = .full ∧ k = 0x1A))))) ∧
  ∀ s : State, s.power = .running → s.replySlot = none →
    (s.requests.head? = some .damaged →
      exec .damagedEntry s =
        .next (serve { s.taken with
          replySlot := some { kind := 0x80, payload := [0x10] }, carrying := false, ahead := none })) ∧
    (∀ k p, s.requests.head? = some (.request k p) → k ∉ requestKinds →
      exec (.unknownKind k p) s =
        .next (serve { s.taken with
          replySlot := some { kind := 0x80, payload := [0x11, k] }, carrying := false, ahead := none }))

/-- A request command on an empty pending queue, between frames, is that request received whole and then taken: the model's
choice (notes/assumptions/3.md). -/
def Obligations.RequestOnAnEmptyQueueIsFirstReceived : Prop :=
  ∀ (c : Instr) (k : Byte) (p : List Byte) (s : State), requestOf c = some (k, p) → s.power = .running →
    s.replySlot = none → s.requests = [] → s.framer = .idle →
    exec c s = exec c (receiveEntry (.request k p) s)

/-! ## The configuration -/

/-- R1, R8, R9, R18, R20, R21, R49: an accepted PUT_INPUT stores the record; a change of function stops the one way of reading
the input and starts the other, with a synthesized release of what was pressed, and a channel that leaves FAULT so raises its
LADDER report and has its home zone re-evaluated (in that order by the model's reading, DEDUCED, notes/assumptions/8.md). That such a
release is dispatched under the old record, and the new one stored after it, is the model's reading (DEDUCED,
notes/assumptions/22.md). A rewrite of a CONTACT input starts its counting again where the noise width changes. Where sense, kind or participate changes,
the rewrite hands a synthesized release, and then a baseline where the input is past its settling, participates and stands
at its press level under the new record: its tracker is LATENT then, and IDLE otherwise. Where the three stay, its gesture is
left alone. -/
def Obligations.PutInputRestartsWhatItChanges : Prop :=
  ∀ (p : List Byte) (i : InputId) (cs : InputSettings) (s : State), RequestHeads 0x30 p s → p.length = 10 →
    s.saving = false → inputOf p = some (i, cs) → inputDenied i cs s = false →
    let old := s.settings.inputs.get i
    let retakes : Prop := old.sense ≠ cs.sense ∨ old.kind ≠ cs.kind ∨ old.participate ≠ cs.participate
    let pressed : Prop := (s.inputs.get i).conditioning = .running ∧ cs.participate = true ∧
      (s.inputs.get i).filtered = cs.sense.pressLevel
    ∃ u, exec (.putInput p) s = .next (replied 0x30 .done [] u) ∧
      u.settings = { s.settings with inputs := s.settings.inputs.set i cs } ∧
      (∀ j, j ≠ i → u.inputs.get j = s.inputs.get j) ∧
      (∀ ch, inputOfChannel ch ≠ i → u.ladders.get ch = s.ladders.get ch) ∧
      (old.function = .contact → cs.function = .ladder →
        u = { synthesizedRelease (.contact i) s.taken with
          settings := u.settings, inputs := u.inputs, ladders := u.ladders } ∧
        u.inputs.get i = { filtered := .opened, pending := none, conditioning := .stopped } ∧
        (u.tracker (.contact i)).state = .idle ∧ OtherTrackersKept [.contact i] s u ∧
        ∀ ch, inputOfChannel ch = i → u.ladders.get ch = LadderState.started) ∧
      (old.function = .ladder → cs.function = .contact →
        u.inputs.get i = { filtered := .opened, pending := none, conditioning := .settling none false } ∧
        ∀ ch, inputOfChannel ch = i → u.ladders.get ch = LadderState.off ∧
          (∃ released told : State,
            (∀ b : LadderButton, (s.ladders.get ch).decode = b.val + 1 →
              released = synthesizedRelease (.ladder ch b) s.taken) ∧
            ((∀ b : LadderButton, (s.ladders.get ch).decode ≠ b.val + 1) → released = s.taken) ∧
            ((s.ladders.get ch).state = .fault → told = reevaluate (s.settings.ladders.get ch).homeZone
              (raise (.ladder ch .inactive) (released.setLadder ch LadderState.off))) ∧
            ((s.ladders.get ch).state ≠ .fault → told = released.setLadder ch LadderState.off) ∧
            u = { told with settings := u.settings, inputs := u.inputs }) ∧
          ∀ b : LadderButton, (s.ladders.get ch).decode = b.val + 1 → (u.tracker (.ladder ch b)).state = .idle) ∧
      (old.function = .contact → cs.function = .contact →
        u.inputs.get i = (if old.noise = cs.noise then s.inputs.get i
          else { s.inputs.get i with
            pending := none
            conditioning := match (s.inputs.get i).conditioning with
              | .settling _ a => .settling none a
              | .running => .running
              | .stopped => .stopped }) ∧
        OtherTrackersKept [.contact i] s u ∧
        (∃ ended stored : State, (retakes → ended = synthesizedRelease (.contact i) s.taken) ∧
          (¬retakes → ended = s.taken) ∧ stored = { ended with settings := u.settings, inputs := u.inputs } ∧
          (retakes → pressed → u = stored.setTracker (.contact i) Tracker.latent) ∧
          (¬retakes ∨ ¬pressed → u = stored)) ∧
        (retakes → pressed → u.tracker (.contact i) = Tracker.latent) ∧
        (retakes → ¬pressed → (u.tracker (.contact i)).state = .idle) ∧
        (old.sense = cs.sense → old.kind = cs.kind → old.participate = cs.participate →
          u.tracker (.contact i) = s.tracker (.contact i))) ∧
      (old.function = .ladder → cs.function = .ladder → u = { s.taken with settings := u.settings })

/-- R17, R18, R22, R23, R24, R29, R39, R40, R49: an accepted PUT_LADDER stores the record and starts a sampled channel afresh
with a synthesized release of its button; a departure from FAULT raises a LADDER report and has the home zones, old and new,
re-evaluated. An accepted PUT_STATION outside the station's own turn hands a synthesized release of each button held in the
key map of an ACTIVE station, in ascending order, stores the record, clears the station's running record and sends it to
IDENTIFYING or OFFLINE, with a STATION report where the state differs, and has its home zones, old and new, re-evaluated (each
report ahead of the re-evaluation by the model's reading, DEDUCED, notes/assumptions/8.md); in the station's own
turn the settings are stored, no gesture ends, the transition waits, and the station, MISSING or MISMATCH, calls its home zone
for as long as its record has enabled on, so that a write of a station that was enabled calls no zone that was not called. That
in that turn both home zones are re-evaluated at the write, with a station that was moved no longer counted, is the model's
choice (DEDUCED, notes/assumptions/9.md). -/
def Obligations.PutLadderAndPutStationStartAfresh : Prop :=
  (∀ (p : List Byte) (ch : ChannelId) (cs : LadderSettings) (s : State), RequestHeads 0x31 p s → p.length = 34 →
    s.saving = false → ladderOf p = some (ch, cs) →
    ∃ u, exec (.putLadder p) s = .next (replied 0x31 .done [] u) ∧
      u.settings = { s.settings with ladders := s.settings.ladders.set ch cs } ∧
      ((s.ladders.get ch).state = .inactive → u = { s.taken with settings := u.settings }) ∧
      ((s.ladders.get ch).state ≠ .inactive → u.ladders = s.ladders.set ch LadderState.started ∧
        (∃ released started : State,
          (∀ b : LadderButton, (s.ladders.get ch).decode = b.val + 1 →
            released = synthesizedRelease (.ladder ch b) s.taken) ∧
          ((∀ b : LadderButton, (s.ladders.get ch).decode ≠ b.val + 1) → released = s.taken) ∧
          started = { released with settings := u.settings, ladders := u.ladders } ∧
          ((s.ladders.get ch).state = .fault → u = reevaluateWhere
            (fun z => decide (z = (s.settings.ladders.get ch).homeZone) || decide (z = cs.homeZone))
            (raise (.ladder ch .normal) started)) ∧
          ((s.ladders.get ch).state ≠ .fault → u = started)) ∧
        (∀ src, (∀ b : LadderButton, src = .ladder ch b → (s.ladders.get ch).decode ≠ b.val + 1) →
          u.tracker src = s.tracker src) ∧
        ∀ b : LadderButton, (s.ladders.get ch).decode = b.val + 1 → (u.tracker (.ladder ch b)).state = .idle)) ∧
  ∀ (p : List Byte) (a : StationId) (cs : StationSettings) (s : State), RequestHeads 0x32 p s → p.length = 22 →
    s.saving = false → stationOf p = some (a, cs) →
    let concerned (z : ZoneId) : Bool :=
      decide (z = (s.settings.stations.get a).homeZone) || decide (z = cs.homeZone)
    ∃ u, exec (.putStation p) s = .next (replied 0x32 .done [] u) ∧
      u.settings = { s.settings with stations := s.settings.stations.set a cs } ∧
      (∀ tn, s.turn = some tn → tn.address = a →
        let st := s.stations.get a
        let old := s.settings.stations.get a
        u.turn = some { tn with deferred := true } ∧
        u = reevaluateWhere concerned { s.taken with settings := u.settings, stations := u.stations, turn := u.turn } ∧
        u.stations = s.stations.set a
          { st with uncounted := st.uncounted || decide (cs.homeZone ≠ old.homeZone) } ∧
        (∀ src, u.tracker src = s.tracker src) ∧
        (∀ z, z = cs.homeZone ∨ z = old.homeZone → ((u.zones.get z).state = .held ↔ called u z = true)) ∧
        (cs.enabled = true → cs.homeZone = old.homeZone → st.uncounted = false →
          st.state = .missing ∨ st.state = .mismatch → (s.settings.zones.get cs.homeZone).mask.getLsbD 8 = true →
          (activeMasked u cs.homeZone).getLsbD 8 = true ∧ (u.zones.get cs.homeZone).state = .held) ∧
        (old.enabled = true ∨ st.uncounted = true → ∀ z, called u z = true → called s z = true)) ∧
      ((∀ tn, s.turn = some tn → tn.address ≠ a) →
        (∀ z, z = cs.homeZone ∨ z = (s.settings.stations.get a).homeZone →
          ((u.zones.get z).state = .held ↔ called u z = true)) ∧
        (let st := s.stations.get a
        let record : StationState := { st with
          state := if cs.enabled then .identifying else .offline, keyMap := 0, baselinePending := false, misses := 0,
          overrides := Table.replicate 8 none, uncounted := false }
        let released := if st.state = .active then releasedInOrder a st.keyMap s.taken else s.taken
        u.stations = s.stations.set a record ∧
        u = { reevaluateWhere concerned (recorded a record { released with settings := u.settings }) with
          turn := u.turn } ∧
        (∀ b : ButtonId, st.state = .active → st.keyMap.getLsbD b.val = true →
          (u.tracker (.station a b)).state = .idle) ∧
        ∀ src, (∀ b : ButtonId, src = .station a b → st.state ≠ .active ∨ st.keyMap.getLsbD b.val = false) →
          u.tracker src = s.tracker src) ∧
        (s.turn = none → u.turn = if cs.enabled then some (newTurn u a) else none) ∧
        (∀ tn, s.turn = some tn → u.turn = some tn))

/-- R57, R61, R83 to R85, R106, R117, R118, R141, R152, R162, R163, R169, R170, R175, R184, R185: an accepted write of a binding,
a scene, a circuit, a zone, an annunciator or the general settings stores the record and has the effect on the running
state that its rule gives, and no other. For a circuit: a new rest level is headed for where the claim list is empty; the
dwell ends at the last change plus the new minimum dwell; with align off a change at a crossing is applied; a law that
leaves SWITCHED hands the request OFF, and one that enters it starts the request at OFF. That the rest level, the dwell,
align and the law are taken in that order within one write is the model's choice (notes/assumptions/19.md). For the general
settings: a new nominal frequency takes the tracker to ACQUIRING, and where it was LOCKED applies each change that waits for
a crossing and has the zones that mask MAINS_UNLOCKED follow their conditions; a new timeout restarts the silence timer, and
where it had expired again while the request waited has the zones that mask LINK_SILENT follow theirs, by the model's choice
(DESIGN CHOICE, notes/assumptions/29.md); the only reports are of the tracker and of these
zones. That the MAINS report goes first, so that it finds room wherever fewer than 32 wait, is the model's reading (DEDUCED,
notes/assumptions/8.md), and so is that the tracker is taken before the silence timer (DEDUCED, notes/assumptions/24.md). A
written zone is re-evaluated under its new settings. -/
def Obligations.PutsStoreTheirRecords : Prop :=
  ∀ (p : List Byte) (s : State), s.saving = false →
    (∀ b, RequestHeads 0x33 p s → p.length = 2 → idOf 512 (wordAt p 0) = some b →
      exec (.putBinding p) s = .next (replied 0x33 .done [] { s.taken with
        settings := { s.settings with bindings := s.settings.bindings.set b none }
        ramps := s.ramps.filter fun r => !decide (r.binding = b) })) ∧
    (∀ b x, RequestHeads 0x33 p s → p.length = 15 → bindingOf p = some (b, x) →
      (x.cls = .egress → egressAllowed x.source s = true) →
      exec (.putBinding p) s = .next (replied 0x33 .done [] { s.taken with
        settings := { s.settings with bindings := s.settings.bindings.set b (some x) }
        ramps := s.ramps.filter fun r => !decide (r.binding = b) })) ∧
    (∀ sc c, RequestHeads 0x34 p s → 19 ≤ p.length → p.length = 19 + 3 * sceneCount p → sceneOf p = some (sc, c) →
      repeatsCircuit c.entries = false → hasRoom sc c.entries.length s = true →
      exec (.putScene p) s = .next (replied 0x34 .done [] { s.taken with
        settings := { s.settings with
          scenes := s.settings.scenes.set sc { c with entries := sortEntries c.entries } } })) ∧
    (∀ c cs, RequestHeads 0x35 p s → p.length = 16 → circuitOf p = some (c, cs) → RelaysInOrder s →
      let old := s.settings.circuits.get c
      let x := s.circuits.get c
      let changed (b : Bool) : Relay :=
        { state := b, dwellRunning := decide (cs.minimumDwell ≠ 0), elapsed := 0, waiting := .none }
      let placed (b : Bool) (r : Relay) : Relay :=
        if cs.align = true ∧ s.mains.state = .locked then { r with waiting := .atCrossing b } else changed b
      let dwelt : Relay :=
        if old.minimumDwell = cs.minimumDwell then x.relay
        else if x.relay.elapsed < cs.minimumDwell * 100 then
          { x.relay with
            dwellRunning := true
            waiting := match x.relay.waiting with
              | .none => .none
              | .afterDwell b | .atCrossing b => .afterDwell b }
        else match x.relay.dwellRunning, x.relay.waiting with
          | true, .afterDwell b => placed b { x.relay with dwellRunning := false }
          | true, .none | true, .atCrossing _ => { x.relay with dwellRunning := false }
          | false, _ => x.relay
      let aligned : Relay := match dwelt.waiting with
        | .atCrossing b => if old.align = true ∧ cs.align = false then changed b else dwelt
        | .none | .afterDwell _ => dwelt
      let handedOff : Relay :=
        if aligned.state = false then { aligned with waiting := .none }
        else match aligned.waiting with
          | .afterDwell _ => { aligned with waiting := .afterDwell false }
          | .atCrossing _ => { aligned with waiting := .atCrossing false }
          | .none => if aligned.dwellRunning then { aligned with waiting := .afterDwell false } else placed false aligned
      let headed := if x.claims = [] ∧ old.rest ≠ cs.rest then x.headFor cs.rest cs.defaultFade else x
      exec (.putCircuit p) s = .next (replied 0x35 .done [] { s.taken with
        settings := { s.settings with circuits := s.settings.circuits.set c cs }
        circuits := s.circuits.set c { headed with
          request := if (old.law = .switched ↔ cs.law = .switched) then x.request else false
          relay := if old.law = .switched ∧ cs.law ≠ .switched then handedOff else aligned } })) ∧
    (∀ z zs, RequestHeads 0x36 p s → p.length = 20 → zoneOf p = some (z, zs) →
      ∃ u, exec (.putZone p) s = .next (replied 0x36 .done [] u) ∧
        u = reevaluate z
          { s.taken with settings := { s.settings with zones := s.settings.zones.set z zs } } ∧
        OnlyZones { s.taken with settings := { s.settings with zones := s.settings.zones.set z zs } } u ∧
        (∀ y, y ≠ z → u.zones.get y = s.zones.get y) ∧ ((u.zones.get z).state = .held ↔ called u z = true) ∧
        (u.zones.get z).force = (s.zones.get z).force ∧
        u.ramps = (if (s.zones.get z).state ≠ .held ∧ (u.zones.get z).state = .held then
          s.ramps.filter fun r => !(decide (r.cls = .loc) && decide (r.zone = z)) else s.ramps)) ∧
    (∀ a f, RequestHeads 0x37 p s → p.length = 3 → annunciatorOf p = some (a, f) →
      exec (.putAnnunciator p) s = .next (replied 0x37 .done [] { s.taken with
        settings := { s.settings with annunciators := s.settings.annunciators.set a f } })) ∧
    (∀ g, RequestHeads 0x38 p s → p.length = 5 → generalOf p = some g →
      let renominated := s.settings.general.nominal ≠ g.nominal
      let retimed := s.settings.general.silenceTimeout ≠ g.silenceTimeout
      let unlocks := renominated ∧ s.mains.state = .locked
      let speaks := retimed ∧ s.silence = .expired
      ∃ u, exec (.putGeneral p) s = .next (replied 0x38 .done [] u) ∧
        (let stored := { s.taken with
          settings := { s.settings with general := g }, mains := u.mains, circuits := u.circuits }
        let told := if renominated ∧ s.mains.state ≠ .acquiring then raise (.mains .acquiring s.mains.lastInterval) stored
          else stored
        let tracked := if unlocks then reevaluateWhere (fun z => (s.settings.zones.get z).mask.getLsbD 11) told else told
        let silenced := { tracked with silence := u.silence }
        u = if speaks then reevaluateWhere (fun z => (s.settings.zones.get z).mask.getLsbD 10) silenced else silenced) ∧
        u = { s.taken with
          settings := { s.settings with general := g }
          mains := u.mains, silence := u.silence, circuits := u.circuits, zones := u.zones, ramps := u.ramps,
          reports := u.reports, lost := u.lost } ∧
        (¬renominated → u.mains = s.mains) ∧
        (renominated →
          u.mains = { s.mains with state := .acquiring, lockCount := 0, previous := none, silence := some 40 }) ∧
        (¬retimed → u.silence = s.silence) ∧
        (retimed →
          u.silence = if g.silenceTimeout = 0 then .stopped else .running (g.silenceTimeout * 1000)) ∧
        (¬unlocks → u.circuits = s.circuits) ∧
        (unlocks → ∀ n, u.circuits.get n = { s.circuits.get n with
          relay := match (s.circuits.get n).relay.waiting with
            | .atCrossing b =>
              { state := b, dwellRunning := decide ((s.settings.circuits.get n).minimumDwell ≠ 0), elapsed := 0,
                waiting := .none }
            | .none | .afterDwell _ => (s.circuits.get n).relay }) ∧
        (∀ z, (unlocks ∧ (s.settings.zones.get z).mask.getLsbD 11 = true) ∨
            (speaks ∧ (s.settings.zones.get z).mask.getLsbD 10 = true) →
          ((u.zones.get z).state = .held ↔ called u z = true) ∧ (u.zones.get z).force = (s.zones.get z).force) ∧
        (∀ z, ¬(unlocks ∧ (s.settings.zones.get z).mask.getLsbD 11 = true) →
            ¬(speaks ∧ (s.settings.zones.get z).mask.getLsbD 10 = true) → u.zones.get z = s.zones.get z) ∧
        (¬unlocks → ¬speaks → u.ramps = s.ramps) ∧
        (∀ r ∈ u.reports, r ∈ s.reports ∨ (renominated ∧ r = .mains .acquiring s.mains.lastInterval) ∨
          ∃ z st f m, r = .zone z st f m) ∧
        (renominated → s.mains.state ≠ .acquiring → g.reportMask.getLsbD 4 = true → s.reports.length < 32 →
          (.mains .acquiring s.mains.lastInterval : Report) ∈ u.reports))

/-- R60, R86, R140, R152, R184: each GET answers DONE with the record as it stands, and changes nothing but the model's own
count of free values drawn (notes/assumptions/7.md). -/
def Obligations.GetsReturnTheirRecords : Prop :=
  ∀ s : State,
    (∀ i, RequestHeads 0x40 [byteOf (numberOf i)] s → exec (.getInput [byteOf (numberOf i)]) s =
      .next (replied 0x40 .done (inputBytes i (s.settings.inputs.get i)) s.taken)) ∧
    (∀ ch, RequestHeads 0x41 [byteOf (numberOf ch)] s → exec (.getLadder [byteOf (numberOf ch)]) s =
      .next (replied 0x41 .done (ladderBytes ch (s.settings.ladders.get ch)) s.taken)) ∧
    (∀ a, RequestHeads 0x42 [byteOf (numberOf a)] s → exec (.getStation [byteOf (numberOf a)]) s =
      .next (replied 0x42 .done (stationBytes a (s.settings.stations.get a)) s.taken)) ∧
    (∀ b, RequestHeads 0x43 (wordOf (numberOf b)) s → exec (.getBinding (wordOf (numberOf b))) s =
      .next (replied 0x43 .done (bindingBytes b (s.settings.bindings.get b)) s.taken)) ∧
    (∀ sc, RequestHeads 0x44 [byteOf (numberOf sc)] s → exec (.getScene [byteOf (numberOf sc)]) s =
      .next (replied 0x44 .done
        (sceneBytes s.draws sc (s.settings.scenes.get sc) ++ wordOf s.settings.entryCount)
        { s.taken with draws := s.draws + 1 })) ∧
    (∀ c, RequestHeads 0x45 [byteOf (numberOf c)] s → exec (.getCircuit [byteOf (numberOf c)]) s =
      .next (replied 0x45 .done (circuitBytes c (s.settings.circuits.get c)) s.taken)) ∧
    (∀ z, RequestHeads 0x46 [byteOf (numberOf z)] s → exec (.getZone [byteOf (numberOf z)]) s =
      .next (replied 0x46 .done (zoneBytes s.draws z (s.settings.zones.get z)) { s.taken with draws := s.draws + 1 })) ∧
    (∀ a, RequestHeads 0x47 [byteOf (numberOf a)] s → exec (.getAnnunciator [byteOf (numberOf a)]) s =
      .next (replied 0x47 .done (annunciatorBytes a (s.settings.annunciators.get a)) s.taken)) ∧
    (RequestHeads 0x48 [] s →
      exec (.getGeneral []) s = .next (replied 0x48 .done (generalBytes s.settings.general) s.taken))

/-- R60, R184, R188: the layout a GET writes is read back by the PUT as the same record, for every record in range, whatever
the free bytes behind a name are. An EMPTY slot reads as its number and thirteen zeros, source kind 0 among them, which no
PUT takes for a binding, and its first two bytes are the clear form of that slot. -/
def Obligations.RecordsReadBackWhole : Prop :=
  (∀ (i : InputId) (c : InputSettings), c.ok i = true → inputOf (inputBytes i c) = some (i, c)) ∧
  (∀ (ch : ChannelId) (c : LadderSettings), c.ok = true → ladderOf (ladderBytes ch c) = some (ch, c)) ∧
  (∀ (a : StationId) (c : StationSettings), c.ok = true → stationOf (stationBytes a c) = some (a, c)) ∧
  (∀ (b : SlotId) (x : Binding), x.action.ok = true → bindingOf (bindingBytes b (some x)) = some (b, x)) ∧
  (∀ b : SlotId, bindingBytes b none = wordOf (numberOf b) ++ List.replicate 13 0 ∧ bindingOf (bindingBytes b none) = none ∧
    idOf 512 (wordAt ((bindingBytes b none).take 2) 0) = some b) ∧
  (∀ (draw : Nat) (sc : SceneId) (c : Scene), c.ok = true → sceneOf (sceneBytes draw sc c) = some (sc, c)) ∧
  (∀ (n : CircuitId) (c : CircuitSettings), c.ok = true → circuitOf (circuitBytes n c) = some (n, c)) ∧
  (∀ (draw : Nat) (z : ZoneId) (c : ZoneSettings), c.ok = true → zoneOf (zoneBytes draw z c) = some (z, c)) ∧
  (∀ (a : AnnunciatorId) (f : AnnunciatorFunction), annunciatorOf (annunciatorBytes a f) = some (a, f)) ∧
  (∀ g : GeneralSettings, g.silenceTimeout ≤ 255 → generalOf (generalBytes g) = some g)

/-! ## Reads, saves and the warm restart -/

/-- R91, R93, R114, R124, R151, R183, R197: HELLO, STATUS, CAUSE, QUERY_CIRCUIT, QUERY_SCENE and QUERY_ZONE answer DONE with
their results; STATUS sets the lost count to 0, CAUSE clears the four flags, and nothing else changes. A scene's status is
the first of R91's tests that holds: INACTIVE with no claim of the scene on any circuit, PARTIAL with an entry circuit whose
effective claim is not the scene's, FADING with an entry circuit in a fade, FULL otherwise. The revisions are free values
(notes/assumptions/6.md). -/
def Obligations.ReadsAndQueriesAnswer : Prop :=
  ∀ s : State,
    (RequestHeads 0x01 [] s → exec (.hello []) s = .next (replied 0x01 .done
      [128, 0, Config.hardwareRevision, Config.firmwareRevision.extractLsb' 0 8,
        Config.firmwareRevision.extractLsb' 8 8] s.taken)) ∧
    (RequestHeads 0x02 [] s → exec (.status []) s = .next (replied 0x02 .done
      [boolByte (s.causes.powerOn || s.causes.resetLine || s.causes.restart || s.causes.storeEmpty), boolByte s.saving,
        byteOf s.mains.state.code, boolByte (egressActive s), byteOf (heldZones s).length, byteOf s.lost]
      { s.taken with lost := 0 })) ∧
    (RequestHeads 0x03 [] s → exec (.cause []) s = .next (replied 0x03 .done
      [byteOf (s.causes.powerOn.toNat + 2 * s.causes.resetLine.toNat + 4 * s.causes.restart.toNat
        + 8 * s.causes.storeEmpty.toNat)]
      { s.taken with causes := { powerOn := false, resetLine := false, restart := false, storeEmpty := false } })) ∧
    (∀ n, RequestHeads 0x20 [byteOf (numberOf n)] s →
      let c := s.circuits.get n
      exec (.queryCircuit [byteOf (numberOf n)]) s = .next (replied 0x20 .done
        (wordOf c.level ++ wordOf (c.target (s.settings.circuits.get n))
          ++ wordOf (match c.fade with | some f => f.steps - f.count | none => 0)
          ++ [boolByte c.relay.state, byteOf c.claims.length] ++ c.claims.flatMap claimBytes) s.taken)) ∧
    (∀ sc, RequestHeads 0x21 [byteOf (numberOf sc)] s → exec (.queryScene [byteOf (numberOf sc)]) s =
      .next (replied 0x21 .done [byteOf (sceneStatus s sc).code] s.taken)) ∧
    (∀ sc,
      let entries := (s.settings.scenes.get sc).entries
      let present := ∃ n, ∃ cl ∈ (s.circuits.get n).claims, cl.owner = .scene sc
      let lacking := ∃ e ∈ entries, ∀ cl, (s.circuits.get e.circuit).claims.head? = some cl → cl.owner ≠ .scene sc
      let fading := ∃ e ∈ entries, (s.circuits.get e.circuit).fade.isSome = true
      (¬present → sceneStatus s sc = .inactive) ∧ (present → lacking → sceneStatus s sc = .partially) ∧
      (present → ¬lacking → fading → sceneStatus s sc = .fading) ∧
      (present → ¬lacking → ¬fading → sceneStatus s sc = .full) ∧
      SceneStatus.inactive.code = 0 ∧ SceneStatus.partially.code = 1 ∧ SceneStatus.fading.code = 2 ∧
      SceneStatus.full.code = 3) ∧
    (∀ z, RequestHeads 0x22 [byteOf (numberOf z)] s → exec (.queryZone [byteOf (numberOf z)]) s =
      .next (replied 0x22 .done ([byteOf (s.zones.get z).state.code, boolByte (s.zones.get z).force]
        ++ wordOf (activeMasked s z).toNat ++ [s.flags]) s.taken))

/-- R5, R14: QUERY_INPUTS answers 14 bytes and changes nothing. Its first six hold one bit for each input, the filtered
level: CLOSED for an input of function CONTACT that has settled at CLOSED, OPEN for every other. Its last eight hold the
stable decode of each channel, a number 0 to 6, 0 for none; a channel that is INACTIVE, in FAULT or with its baseline
pending reads 0. That every step keeps the decodes within 0 to 6 is `StepsKeepCountsBounded`. -/
def Obligations.QueryInputsReadsLevelsAndDecodes : Prop :=
  ∀ s : State, RequestHeads 0x24 [] s →
    ∃ results, exec (.queryInputs []) s = .next (replied 0x24 .done results s.taken) ∧ results.length = 14 ∧
      (∀ i : InputId, (results.getD (i.val / 8) 0).getLsbD (i.val % 8) =
        (decide ((s.settings.inputs.get i).function = .contact) &&
          decide ((s.inputs.get i).conditioning = .running) && decide ((s.inputs.get i).filtered = .closed))) ∧
      ∀ ch : ChannelId, (s.ladders.get ch).decode ≤ 6 → (results.getD (6 + ch.val) 0).toNat =
        if (s.ladders.get ch).state = .normal ∧ (s.ladders.get ch).baselinePending = false
        then (s.ladders.get ch).decode else 0

/-- R35: QUERY_STATION answers the state, the type code, the button count and both tallies, and with the clear option
zeroes the tallies; it changes nothing else. -/
def Obligations.StationQueryReadsAndClears : Prop :=
  ∀ (s : State) (a : StationId) (clear : Bool), RequestHeads 0x23 [byteOf (numberOf a), boolByte clear] s →
    let st := s.stations.get a
    exec (.queryStation [byteOf (numberOf a), boolByte clear]) s = .next (replied 0x23 .done
      ([byteOf st.state.code, st.reportedType, byteOf st.reportedButtons] ++ wordOf st.badReplies
        ++ wordOf st.noReplies)
      (if clear then s.taken.setStation a { st with badReplies := 0, noReplies := 0 } else s.taken))

/-- R186, R192, R193: SAVE marks the image invalid and starts the save; its end leaves the image valid with the live
configuration where it verified, and invalid otherwise, and raises a SAVED report. -/
def Obligations.SavesWriteTheLiveConfiguration : Prop :=
  ∀ s : State,
    (RequestHeads 0x08 [] s → s.saving = false →
      exec (.save []) s = .next (replied 0x08 .done [] { s.taken with saving := true, image := none })) ∧
    (∀ verified : Bool, s.power = .running → s.saving = true → exec (.saveEnd verified) s = .next (serve
      (raise (.saved verified) { s with saving := false, image := if verified then some s.settings else none })))

/-- R7, R19, R42, R55, R111, R136, R156, R164, R186, R198: a warm restart keeps the configuration, the image, the flags, the
enables, the mains tracker and every lamp: each circuit keeps its level, its relay state and its relay request under one
RESTART claim at its level, with no fade, no waiting change and its dwell begun afresh (the restart counts as the relay's last change, DEDUCED,
notes/assumptions/15.md). Inputs and channels are kept, but that
a settling input no longer asserts. Every station is set to IDENTIFYING or OFFLINE with its running record cleared and its
type, button count and tallies kept, and the first enabled one begins its turn. The trackers of participating inputs at their
press level (settling ones by their level OPEN, DEDUCED, notes/assumptions/26.md) and of the stable buttons of NORMAL channels
are LATENT, all others IDLE. Ramps, waiting reports and the lost count go. Every zone takes the state of R156's table, its
timer afresh where that is RELEASING (at the delay that stands then, DEDUCED, notes/assumptions/23.md), and the reports are
those of the zones whose state changed, in ascending order. -/
def Obligations.WarmRestartKeepsTheLights : Prop :=
  ∀ s : State, RequestHeads 0x09 [] s → s.saving = false →
    ∃ u, exec (.restart []) s = .next (replied 0x09 .done [] u) ∧
      u.settings = s.settings ∧ u.image = s.image ∧ u.flags = s.flags ∧ u.enables = s.enables ∧ u.mains = s.mains ∧
      u.requests = s.requests.tail ∧ u.sending = s.sending ∧ u.frameCount = s.frameCount ∧
      u.causes = { s.causes with restart := true } ∧ u.ramps = [] ∧
      u = { s.taken with
        causes := u.causes, reports := u.reports, lost := 0, inputs := u.inputs, stations := u.stations, turn := u.turn,
        contactTrackers := u.contactTrackers, ladderTrackers := u.ladderTrackers, stationTrackers := u.stationTrackers,
        circuits := u.circuits, ramps := [], zones := u.zones } ∧
      (∀ i, u.inputs.get i = { s.inputs.get i with
        conditioning := match (s.inputs.get i).conditioning with
          | .settling run _ => .settling run false
          | .running => .running
          | .stopped => .stopped }) ∧
      (∀ a, u.stations.get a = { s.stations.get a with
        state := if (s.settings.stations.get a).enabled then .identifying else .offline, keyMap := 0,
        baselinePending := false, misses := 0, overrides := Table.replicate 8 none, uncounted := false }) ∧
      u.turn = (firstServed u).map (newTurn u) ∧
      (∀ i, let cs := s.settings.inputs.get i
        u.tracker (.contact i) = if cs.function = .contact ∧ cs.participate = true ∧
          (s.inputs.get i).filtered = cs.sense.pressLevel then Tracker.latent else Tracker.idle) ∧
      (∀ ch b, u.tracker (.ladder ch b) =
        if (s.ladders.get ch).state = .normal ∧ (s.ladders.get ch).decode = b.val + 1 then Tracker.latent
        else Tracker.idle) ∧
      (∀ n, u.circuits.get n = { s.circuits.get n with
        claims := [{ owner := .restart, cls := .base, level := (s.circuits.get n).level, zone := none }]
        fade := none
        relay :=
          { state := (s.circuits.get n).relay.state, elapsed := 0, waiting := .none
            dwellRunning := decide ((s.settings.circuits.get n).minimumDwell ≠ 0) } }) ∧
      (let next (z : ZoneId) : ZoneStateName := if called u z then .held else match (s.zones.get z).state with
        | .held => (match (s.settings.zones.get z).mode with
          | .manual => .awaiting
          | .auto => if (s.settings.zones.get z).delay = 0 then .free else .releasing)
        | .free => .free
        | .releasing => .releasing
        | .awaiting => .awaiting
      (∀ z, u.zones.get z =
        { state := next z, force := (s.zones.get z).force
          timer := if next z = .releasing then some ((s.settings.zones.get z).delay * 1000) else none }) ∧
      u.reports = if s.settings.general.reportMask.getLsbD 1 then
        ((List.finRange 16).filter fun z => decide (next z ≠ (s.zones.get z).state)).map fun z =>
          .zone z (next z) (s.zones.get z).force (activeMasked u z)
        else []) ∧
      (∀ n, let old := s.circuits.get n
        (u.circuits.get n).level = old.level ∧ (u.circuits.get n).fade = none ∧
        (u.circuits.get n).claims = [{ owner := .restart, cls := .base, level := old.level, zone := none }] ∧
        (u.circuits.get n).relay.state = old.relay.state ∧ (u.circuits.get n).request = old.request ∧
        (u.circuits.get n).output = old.output ∧ (u.circuits.get n).relay.waiting = .none) ∧
      (∀ z, ((u.zones.get z).state = .held ↔ called u z = true) ∧ (u.zones.get z).force = (s.zones.get z).force) ∧
      (∀ a b, u.tracker (.station a b) = Tracker.idle) ∧
      (∀ r ∈ u.reports, ∃ z st f m, r = .zone z st f m)

/-! ## What every step keeps -/

/-- R96, R97: every claim list stays in order and every claim is one that its owner may place. -/
def Obligations.StepsKeepClaimsInOrder : Prop :=
  ∀ s t : State, ClaimsInOrder s → step s = .next t → ClaimsInOrder t

/-- R119, R121, R131: every level stays within 0 to 1000 and on its way to its circuit's target, and every setting within
the range its write admits. -/
def Obligations.StepsKeepLevelsOnTheirWay : Prop :=
  ∀ s t : State, LevelsFollowTargets s → step s = .next t → LevelsFollowTargets t

/-- R125, R126, R149: the ramp table keeps its bounds and order, and no LOCAL ramp runs in a zone that is not FREE. -/
def Obligations.StepsKeepRampsInOrder : Prop :=
  ∀ s t : State, RampTableOk s ∧ LocalRampsOnlyInFreeZones s → step s = .next t →
    RampTableOk t ∧ LocalRampsOnlyInFreeZones t

/-- R118, R157 to R162: a relay change waits for a crossing only with align on, the tracker LOCKED and the dwell over. -/
def Obligations.StepsKeepRelaysInOrder : Prop :=
  ∀ s t : State, RelaysInOrder s → step s = .next t → RelaysInOrder t

/-- R142, R143, R147: every zone is HELD exactly while it is called, and its timer runs exactly in RELEASING. -/
def Obligations.StepsKeepZonesUnderTheirConditions : Prop :=
  ∀ s t : State, ZonesFollowConditions s → step s = .next t → ZonesFollowConditions t

/-- R59, R1: in the live configuration and in the image, every EGRESS binding has as its source an egress-capable contact
input of function CONTACT. -/
def Obligations.StepsKeepTheEgressLaw : Prop :=
  ∀ s t : State, OfBothCopies Settings.EgressLaw s → step s = .next t → OfBothCopies Settings.EgressLaw t

/-- R43, R45 to R50: every tracker's record stays as its state has it: IDLE and LATENT hold nothing else, DOWN has its kind
and hold time and, where MOMENTARY, its timer, and HELD is MOMENTARY with its timer stopped. -/
def Obligations.StepsKeepTrackersInOrder : Prop :=
  ∀ s t : State, TrackersInOrder s → step s = .next t → TrackersInOrder t

/-- R14, R176, R181: at most 4 requests wait, at most 32 reports, the lost count stays within 255, and every channel's
stable decode within 0 to 6. -/
def Obligations.StepsKeepCountsBounded : Prop :=
  ∀ s t : State, CountsBounded s → step s = .next t → CountsBounded t

/-- Each property that every step keeps holds at reset. -/
def Obligations.ResetMeetsEveryInvariant : Prop :=
  ClaimsInOrder State.reset ∧ LevelsFollowTargets State.reset ∧ RampTableOk State.reset ∧
    LocalRampsOnlyInFreeZones State.reset ∧ RelaysInOrder State.reset ∧ ZonesFollowConditions State.reset ∧
    OfBothCopies Settings.EgressLaw State.reset ∧ TrackersInOrder State.reset ∧ CountsBounded State.reset
end

