-- ==== Sys2Proof/Laws/Tables.lean ====
section
/-! SUPPORT. The laws of a table: what each operation leaves at each index, and that a table is its records. -/

namespace Sys2Proof

variable {α β γ : Type} {n : Nat}

theorem Table.get_eq_getElem (t : Table α n) (i : Fin n) : t.get i = t.items[i.val]'(by rw [t.size]; exact i.isLt) := by
  simp [Table.get]

@[simp] theorem Table.get_set_self (t : Table α n) (i : Fin n) (a : α) : (t.set i a).get i = a := by
  simp [Table.get_eq_getElem, Table.set]

theorem Table.get_set_ne (t : Table α n) {i j : Fin n} (a : α) (h : i ≠ j) : (t.set i a).get j = t.get j := by
  have : i.val ≠ j.val := fun e => h (Fin.ext e)
  simp [Table.get_eq_getElem, Table.set, this]

/-- A table after one record is replaced. -/
theorem Table.get_set (t : Table α n) (i j : Fin n) (a : α) : (t.set i a).get j = if i = j then a else t.get j := by
  by_cases h : i = j
  · subst h; simp
  · simp [h, Table.get_set_ne t a h]

@[simp] theorem Table.get_replicate (a : α) (i : Fin n) : (Table.replicate n a).get i = a := by
  simp [Table.get_eq_getElem, Table.replicate]

@[simp] theorem Table.get_map (f : α → β) (t : Table α n) (i : Fin n) : (t.map f).get i = f (t.get i) := by
  simp [Table.get_eq_getElem, Table.map]

@[simp] theorem Table.get_zipWith (f : α → β → γ) (t : Table α n) (u : Table β n) (i : Fin n) :
    (Table.zipWith f t u).get i = f (t.get i) (u.get i) := by
  simp [Table.get_eq_getElem, Table.zipWith]

@[simp] theorem Table.get_ofFn (f : Fin n → α) (i : Fin n) : (Table.ofFn f).get i = f i := by
  simp [Table.get_eq_getElem, Table.ofFn]

/-- A table is its records. -/
theorem Table.ext_get {t u : Table α n} (h : ∀ i, t.get i = u.get i) : t = u := by
  cases t with
  | mk a ha =>
    cases u with
    | mk b hb =>
      congr
      refine List.ext_getElem (by rw [ha, hb]) fun k hk _ => ?_
      simpa [Table.get_eq_getElem] using h ⟨k, by rw [← ha]; exact hk⟩

@[simp] theorem Table.set_get (t : Table α n) (i : Fin n) : t.set i (t.get i) = t :=
  Table.ext_get fun j => by
    rw [Table.get_set]; split
    · next h => rw [h]
    · rfl

theorem Table.mem_items {t : Table α n} {a : α} : a ∈ t.items ↔ ∃ i, t.get i = a := by
  constructor
  · intro h
    obtain ⟨k, hk, e⟩ := List.getElem_of_mem h
    exact ⟨⟨k, by rw [← t.size]; exact hk⟩, by simpa [Table.get_eq_getElem] using e⟩
  · rintro ⟨i, rfl⟩
    rw [Table.get_eq_getElem]
    exact List.getElem_mem _

theorem Table.any_items {t : Table α n} {p : α → Bool} : t.items.any p = true ↔ ∃ i, p (t.get i) = true := by
  simp only [List.any_eq_true, Table.mem_items]
  constructor
  · rintro ⟨_, ⟨i, rfl⟩, h⟩; exact ⟨i, h⟩
  · rintro ⟨i, h⟩; exact ⟨_, ⟨i, rfl⟩, h⟩

/-- The records with their indices are the pairs of an index and its record. -/
theorem Table.mem_indexed {t : Table α n} {i : Fin n} {a : α} : (i, a) ∈ t.indexed ↔ t.get i = a := by
  unfold Table.indexed
  rw [List.mem_iff_getElem]
  constructor
  · rintro ⟨k, hk, e⟩
    simp only [List.getElem_zip, List.getElem_finRange, Prod.mk.injEq] at e
    obtain ⟨rfl, rfl⟩ := e
    simp [Table.get_eq_getElem]
  · rintro rfl
    refine ⟨i.val, ?_, ?_⟩
    · simp [t.size]
    · simp [Table.get_eq_getElem]

end Sys2Proof
end

