-- ==== Sys2Proof/Laws/State.lean ====
section
/-! SUPPORT. One lemma per field and per update of the state, so that no later proof unfolds a record update. -/

namespace Sys2Proof.Machine

/-! ## setInput -/

section
variable (i : InputId) (v : InputState) (s : State)

@[simp] theorem State.setInput_power : (s.setInput i v).power = s.power := rfl
@[simp] theorem State.setInput_settings : (s.setInput i v).settings = s.settings := rfl
@[simp] theorem State.setInput_image : (s.setInput i v).image = s.image := rfl
@[simp] theorem State.setInput_saving : (s.setInput i v).saving = s.saving := rfl
@[simp] theorem State.setInput_causes : (s.setInput i v).causes = s.causes := rfl
@[simp] theorem State.setInput_inputs : (s.setInput i v).inputs = s.inputs.set i v := rfl
@[simp] theorem State.setInput_ladders : (s.setInput i v).ladders = s.ladders := rfl
@[simp] theorem State.setInput_stations : (s.setInput i v).stations = s.stations := rfl
@[simp] theorem State.setInput_turn : (s.setInput i v).turn = s.turn := rfl
@[simp] theorem State.setInput_contactTrackers : (s.setInput i v).contactTrackers = s.contactTrackers := rfl
@[simp] theorem State.setInput_ladderTrackers : (s.setInput i v).ladderTrackers = s.ladderTrackers := rfl
@[simp] theorem State.setInput_stationTrackers : (s.setInput i v).stationTrackers = s.stationTrackers := rfl
@[simp] theorem State.setInput_circuits : (s.setInput i v).circuits = s.circuits := rfl
@[simp] theorem State.setInput_ramps : (s.setInput i v).ramps = s.ramps := rfl
@[simp] theorem State.setInput_frameCount : (s.setInput i v).frameCount = s.frameCount := rfl
@[simp] theorem State.setInput_refresh : (s.setInput i v).refresh = s.refresh := rfl
@[simp] theorem State.setInput_mains : (s.setInput i v).mains = s.mains := rfl
@[simp] theorem State.setInput_zones : (s.setInput i v).zones = s.zones := rfl
@[simp] theorem State.setInput_flags : (s.setInput i v).flags = s.flags := rfl
@[simp] theorem State.setInput_enables : (s.setInput i v).enables = s.enables := rfl
@[simp] theorem State.setInput_framer : (s.setInput i v).framer = s.framer := rfl
@[simp] theorem State.setInput_requests : (s.setInput i v).requests = s.requests := rfl
@[simp] theorem State.setInput_replySlot : (s.setInput i v).replySlot = s.replySlot := rfl
@[simp] theorem State.setInput_carrying : (s.setInput i v).carrying = s.carrying := rfl
@[simp] theorem State.setInput_ahead : (s.setInput i v).ahead = s.ahead := rfl
@[simp] theorem State.setInput_sending : (s.setInput i v).sending = s.sending := rfl
@[simp] theorem State.setInput_reports : (s.setInput i v).reports = s.reports := rfl
@[simp] theorem State.setInput_lost : (s.setInput i v).lost = s.lost := rfl
@[simp] theorem State.setInput_silence : (s.setInput i v).silence = s.silence := rfl
@[simp] theorem State.setInput_draws : (s.setInput i v).draws = s.draws := rfl
@[simp] theorem State.setInput_pending : (s.setInput i v).pending = s.pending := rfl

end

/-! ## setLadder -/

section
variable (ch : ChannelId) (v : LadderState) (s : State)

@[simp] theorem State.setLadder_power : (s.setLadder ch v).power = s.power := rfl
@[simp] theorem State.setLadder_settings : (s.setLadder ch v).settings = s.settings := rfl
@[simp] theorem State.setLadder_image : (s.setLadder ch v).image = s.image := rfl
@[simp] theorem State.setLadder_saving : (s.setLadder ch v).saving = s.saving := rfl
@[simp] theorem State.setLadder_causes : (s.setLadder ch v).causes = s.causes := rfl
@[simp] theorem State.setLadder_inputs : (s.setLadder ch v).inputs = s.inputs := rfl
@[simp] theorem State.setLadder_ladders : (s.setLadder ch v).ladders = s.ladders.set ch v := rfl
@[simp] theorem State.setLadder_stations : (s.setLadder ch v).stations = s.stations := rfl
@[simp] theorem State.setLadder_turn : (s.setLadder ch v).turn = s.turn := rfl
@[simp] theorem State.setLadder_contactTrackers : (s.setLadder ch v).contactTrackers = s.contactTrackers := rfl
@[simp] theorem State.setLadder_ladderTrackers : (s.setLadder ch v).ladderTrackers = s.ladderTrackers := rfl
@[simp] theorem State.setLadder_stationTrackers : (s.setLadder ch v).stationTrackers = s.stationTrackers := rfl
@[simp] theorem State.setLadder_circuits : (s.setLadder ch v).circuits = s.circuits := rfl
@[simp] theorem State.setLadder_ramps : (s.setLadder ch v).ramps = s.ramps := rfl
@[simp] theorem State.setLadder_frameCount : (s.setLadder ch v).frameCount = s.frameCount := rfl
@[simp] theorem State.setLadder_refresh : (s.setLadder ch v).refresh = s.refresh := rfl
@[simp] theorem State.setLadder_mains : (s.setLadder ch v).mains = s.mains := rfl
@[simp] theorem State.setLadder_zones : (s.setLadder ch v).zones = s.zones := rfl
@[simp] theorem State.setLadder_flags : (s.setLadder ch v).flags = s.flags := rfl
@[simp] theorem State.setLadder_enables : (s.setLadder ch v).enables = s.enables := rfl
@[simp] theorem State.setLadder_framer : (s.setLadder ch v).framer = s.framer := rfl
@[simp] theorem State.setLadder_requests : (s.setLadder ch v).requests = s.requests := rfl
@[simp] theorem State.setLadder_replySlot : (s.setLadder ch v).replySlot = s.replySlot := rfl
@[simp] theorem State.setLadder_carrying : (s.setLadder ch v).carrying = s.carrying := rfl
@[simp] theorem State.setLadder_ahead : (s.setLadder ch v).ahead = s.ahead := rfl
@[simp] theorem State.setLadder_sending : (s.setLadder ch v).sending = s.sending := rfl
@[simp] theorem State.setLadder_reports : (s.setLadder ch v).reports = s.reports := rfl
@[simp] theorem State.setLadder_lost : (s.setLadder ch v).lost = s.lost := rfl
@[simp] theorem State.setLadder_silence : (s.setLadder ch v).silence = s.silence := rfl
@[simp] theorem State.setLadder_draws : (s.setLadder ch v).draws = s.draws := rfl
@[simp] theorem State.setLadder_pending : (s.setLadder ch v).pending = s.pending := rfl

end

/-! ## setStation -/

section
variable (a : StationId) (v : StationState) (s : State)

@[simp] theorem State.setStation_power : (s.setStation a v).power = s.power := rfl
@[simp] theorem State.setStation_settings : (s.setStation a v).settings = s.settings := rfl
@[simp] theorem State.setStation_image : (s.setStation a v).image = s.image := rfl
@[simp] theorem State.setStation_saving : (s.setStation a v).saving = s.saving := rfl
@[simp] theorem State.setStation_causes : (s.setStation a v).causes = s.causes := rfl
@[simp] theorem State.setStation_inputs : (s.setStation a v).inputs = s.inputs := rfl
@[simp] theorem State.setStation_ladders : (s.setStation a v).ladders = s.ladders := rfl
@[simp] theorem State.setStation_stations : (s.setStation a v).stations = s.stations.set a v := rfl
@[simp] theorem State.setStation_turn : (s.setStation a v).turn = s.turn := rfl
@[simp] theorem State.setStation_contactTrackers : (s.setStation a v).contactTrackers = s.contactTrackers := rfl
@[simp] theorem State.setStation_ladderTrackers : (s.setStation a v).ladderTrackers = s.ladderTrackers := rfl
@[simp] theorem State.setStation_stationTrackers : (s.setStation a v).stationTrackers = s.stationTrackers := rfl
@[simp] theorem State.setStation_circuits : (s.setStation a v).circuits = s.circuits := rfl
@[simp] theorem State.setStation_ramps : (s.setStation a v).ramps = s.ramps := rfl
@[simp] theorem State.setStation_frameCount : (s.setStation a v).frameCount = s.frameCount := rfl
@[simp] theorem State.setStation_refresh : (s.setStation a v).refresh = s.refresh := rfl
@[simp] theorem State.setStation_mains : (s.setStation a v).mains = s.mains := rfl
@[simp] theorem State.setStation_zones : (s.setStation a v).zones = s.zones := rfl
@[simp] theorem State.setStation_flags : (s.setStation a v).flags = s.flags := rfl
@[simp] theorem State.setStation_enables : (s.setStation a v).enables = s.enables := rfl
@[simp] theorem State.setStation_framer : (s.setStation a v).framer = s.framer := rfl
@[simp] theorem State.setStation_requests : (s.setStation a v).requests = s.requests := rfl
@[simp] theorem State.setStation_replySlot : (s.setStation a v).replySlot = s.replySlot := rfl
@[simp] theorem State.setStation_carrying : (s.setStation a v).carrying = s.carrying := rfl
@[simp] theorem State.setStation_ahead : (s.setStation a v).ahead = s.ahead := rfl
@[simp] theorem State.setStation_sending : (s.setStation a v).sending = s.sending := rfl
@[simp] theorem State.setStation_reports : (s.setStation a v).reports = s.reports := rfl
@[simp] theorem State.setStation_lost : (s.setStation a v).lost = s.lost := rfl
@[simp] theorem State.setStation_silence : (s.setStation a v).silence = s.silence := rfl
@[simp] theorem State.setStation_draws : (s.setStation a v).draws = s.draws := rfl
@[simp] theorem State.setStation_pending : (s.setStation a v).pending = s.pending := rfl

end

/-! ## setCircuit -/

section
variable (c : CircuitId) (v : Circuit) (s : State)

@[simp] theorem State.setCircuit_power : (s.setCircuit c v).power = s.power := rfl
@[simp] theorem State.setCircuit_settings : (s.setCircuit c v).settings = s.settings := rfl
@[simp] theorem State.setCircuit_image : (s.setCircuit c v).image = s.image := rfl
@[simp] theorem State.setCircuit_saving : (s.setCircuit c v).saving = s.saving := rfl
@[simp] theorem State.setCircuit_causes : (s.setCircuit c v).causes = s.causes := rfl
@[simp] theorem State.setCircuit_inputs : (s.setCircuit c v).inputs = s.inputs := rfl
@[simp] theorem State.setCircuit_ladders : (s.setCircuit c v).ladders = s.ladders := rfl
@[simp] theorem State.setCircuit_stations : (s.setCircuit c v).stations = s.stations := rfl
@[simp] theorem State.setCircuit_turn : (s.setCircuit c v).turn = s.turn := rfl
@[simp] theorem State.setCircuit_contactTrackers : (s.setCircuit c v).contactTrackers = s.contactTrackers := rfl
@[simp] theorem State.setCircuit_ladderTrackers : (s.setCircuit c v).ladderTrackers = s.ladderTrackers := rfl
@[simp] theorem State.setCircuit_stationTrackers : (s.setCircuit c v).stationTrackers = s.stationTrackers := rfl
@[simp] theorem State.setCircuit_circuits : (s.setCircuit c v).circuits = s.circuits.set c v := rfl
@[simp] theorem State.setCircuit_ramps : (s.setCircuit c v).ramps = s.ramps := rfl
@[simp] theorem State.setCircuit_frameCount : (s.setCircuit c v).frameCount = s.frameCount := rfl
@[simp] theorem State.setCircuit_refresh : (s.setCircuit c v).refresh = s.refresh := rfl
@[simp] theorem State.setCircuit_mains : (s.setCircuit c v).mains = s.mains := rfl
@[simp] theorem State.setCircuit_zones : (s.setCircuit c v).zones = s.zones := rfl
@[simp] theorem State.setCircuit_flags : (s.setCircuit c v).flags = s.flags := rfl
@[simp] theorem State.setCircuit_enables : (s.setCircuit c v).enables = s.enables := rfl
@[simp] theorem State.setCircuit_framer : (s.setCircuit c v).framer = s.framer := rfl
@[simp] theorem State.setCircuit_requests : (s.setCircuit c v).requests = s.requests := rfl
@[simp] theorem State.setCircuit_replySlot : (s.setCircuit c v).replySlot = s.replySlot := rfl
@[simp] theorem State.setCircuit_carrying : (s.setCircuit c v).carrying = s.carrying := rfl
@[simp] theorem State.setCircuit_ahead : (s.setCircuit c v).ahead = s.ahead := rfl
@[simp] theorem State.setCircuit_sending : (s.setCircuit c v).sending = s.sending := rfl
@[simp] theorem State.setCircuit_reports : (s.setCircuit c v).reports = s.reports := rfl
@[simp] theorem State.setCircuit_lost : (s.setCircuit c v).lost = s.lost := rfl
@[simp] theorem State.setCircuit_silence : (s.setCircuit c v).silence = s.silence := rfl
@[simp] theorem State.setCircuit_draws : (s.setCircuit c v).draws = s.draws := rfl
@[simp] theorem State.setCircuit_pending : (s.setCircuit c v).pending = s.pending := rfl

end

/-! ## setZone -/

section
variable (z : ZoneId) (v : Zone) (s : State)

@[simp] theorem State.setZone_power : (s.setZone z v).power = s.power := rfl
@[simp] theorem State.setZone_settings : (s.setZone z v).settings = s.settings := rfl
@[simp] theorem State.setZone_image : (s.setZone z v).image = s.image := rfl
@[simp] theorem State.setZone_saving : (s.setZone z v).saving = s.saving := rfl
@[simp] theorem State.setZone_causes : (s.setZone z v).causes = s.causes := rfl
@[simp] theorem State.setZone_inputs : (s.setZone z v).inputs = s.inputs := rfl
@[simp] theorem State.setZone_ladders : (s.setZone z v).ladders = s.ladders := rfl
@[simp] theorem State.setZone_stations : (s.setZone z v).stations = s.stations := rfl
@[simp] theorem State.setZone_turn : (s.setZone z v).turn = s.turn := rfl
@[simp] theorem State.setZone_contactTrackers : (s.setZone z v).contactTrackers = s.contactTrackers := rfl
@[simp] theorem State.setZone_ladderTrackers : (s.setZone z v).ladderTrackers = s.ladderTrackers := rfl
@[simp] theorem State.setZone_stationTrackers : (s.setZone z v).stationTrackers = s.stationTrackers := rfl
@[simp] theorem State.setZone_circuits : (s.setZone z v).circuits = s.circuits := rfl
@[simp] theorem State.setZone_ramps : (s.setZone z v).ramps = s.ramps := rfl
@[simp] theorem State.setZone_frameCount : (s.setZone z v).frameCount = s.frameCount := rfl
@[simp] theorem State.setZone_refresh : (s.setZone z v).refresh = s.refresh := rfl
@[simp] theorem State.setZone_mains : (s.setZone z v).mains = s.mains := rfl
@[simp] theorem State.setZone_zones : (s.setZone z v).zones = s.zones.set z v := rfl
@[simp] theorem State.setZone_flags : (s.setZone z v).flags = s.flags := rfl
@[simp] theorem State.setZone_enables : (s.setZone z v).enables = s.enables := rfl
@[simp] theorem State.setZone_framer : (s.setZone z v).framer = s.framer := rfl
@[simp] theorem State.setZone_requests : (s.setZone z v).requests = s.requests := rfl
@[simp] theorem State.setZone_replySlot : (s.setZone z v).replySlot = s.replySlot := rfl
@[simp] theorem State.setZone_carrying : (s.setZone z v).carrying = s.carrying := rfl
@[simp] theorem State.setZone_ahead : (s.setZone z v).ahead = s.ahead := rfl
@[simp] theorem State.setZone_sending : (s.setZone z v).sending = s.sending := rfl
@[simp] theorem State.setZone_reports : (s.setZone z v).reports = s.reports := rfl
@[simp] theorem State.setZone_lost : (s.setZone z v).lost = s.lost := rfl
@[simp] theorem State.setZone_silence : (s.setZone z v).silence = s.silence := rfl
@[simp] theorem State.setZone_draws : (s.setZone z v).draws = s.draws := rfl
@[simp] theorem State.setZone_pending : (s.setZone z v).pending = s.pending := rfl

end

/-! ## setSettings -/

section
variable (v : Settings) (s : State)

@[simp] theorem State.setSettings_power : (s.setSettings v).power = s.power := rfl
@[simp] theorem State.setSettings_settings : (s.setSettings v).settings = v := rfl
@[simp] theorem State.setSettings_image : (s.setSettings v).image = s.image := rfl
@[simp] theorem State.setSettings_saving : (s.setSettings v).saving = s.saving := rfl
@[simp] theorem State.setSettings_causes : (s.setSettings v).causes = s.causes := rfl
@[simp] theorem State.setSettings_inputs : (s.setSettings v).inputs = s.inputs := rfl
@[simp] theorem State.setSettings_ladders : (s.setSettings v).ladders = s.ladders := rfl
@[simp] theorem State.setSettings_stations : (s.setSettings v).stations = s.stations := rfl
@[simp] theorem State.setSettings_turn : (s.setSettings v).turn = s.turn := rfl
@[simp] theorem State.setSettings_contactTrackers : (s.setSettings v).contactTrackers = s.contactTrackers := rfl
@[simp] theorem State.setSettings_ladderTrackers : (s.setSettings v).ladderTrackers = s.ladderTrackers := rfl
@[simp] theorem State.setSettings_stationTrackers : (s.setSettings v).stationTrackers = s.stationTrackers := rfl
@[simp] theorem State.setSettings_circuits : (s.setSettings v).circuits = s.circuits := rfl
@[simp] theorem State.setSettings_ramps : (s.setSettings v).ramps = s.ramps := rfl
@[simp] theorem State.setSettings_frameCount : (s.setSettings v).frameCount = s.frameCount := rfl
@[simp] theorem State.setSettings_refresh : (s.setSettings v).refresh = s.refresh := rfl
@[simp] theorem State.setSettings_mains : (s.setSettings v).mains = s.mains := rfl
@[simp] theorem State.setSettings_zones : (s.setSettings v).zones = s.zones := rfl
@[simp] theorem State.setSettings_flags : (s.setSettings v).flags = s.flags := rfl
@[simp] theorem State.setSettings_enables : (s.setSettings v).enables = s.enables := rfl
@[simp] theorem State.setSettings_framer : (s.setSettings v).framer = s.framer := rfl
@[simp] theorem State.setSettings_requests : (s.setSettings v).requests = s.requests := rfl
@[simp] theorem State.setSettings_replySlot : (s.setSettings v).replySlot = s.replySlot := rfl
@[simp] theorem State.setSettings_carrying : (s.setSettings v).carrying = s.carrying := rfl
@[simp] theorem State.setSettings_ahead : (s.setSettings v).ahead = s.ahead := rfl
@[simp] theorem State.setSettings_sending : (s.setSettings v).sending = s.sending := rfl
@[simp] theorem State.setSettings_reports : (s.setSettings v).reports = s.reports := rfl
@[simp] theorem State.setSettings_lost : (s.setSettings v).lost = s.lost := rfl
@[simp] theorem State.setSettings_silence : (s.setSettings v).silence = s.silence := rfl
@[simp] theorem State.setSettings_draws : (s.setSettings v).draws = s.draws := rfl
@[simp] theorem State.setSettings_pending : (s.setSettings v).pending = s.pending := rfl

end

/-! ## setTracker -/

section
variable (src : Source) (v : Tracker) (s : State)

@[simp] theorem State.setTracker_power : (s.setTracker src v).power = s.power := by cases src <;> rfl
@[simp] theorem State.setTracker_settings : (s.setTracker src v).settings = s.settings := by cases src <;> rfl
@[simp] theorem State.setTracker_image : (s.setTracker src v).image = s.image := by cases src <;> rfl
@[simp] theorem State.setTracker_saving : (s.setTracker src v).saving = s.saving := by cases src <;> rfl
@[simp] theorem State.setTracker_causes : (s.setTracker src v).causes = s.causes := by cases src <;> rfl
@[simp] theorem State.setTracker_inputs : (s.setTracker src v).inputs = s.inputs := by cases src <;> rfl
@[simp] theorem State.setTracker_ladders : (s.setTracker src v).ladders = s.ladders := by cases src <;> rfl
@[simp] theorem State.setTracker_stations : (s.setTracker src v).stations = s.stations := by cases src <;> rfl
@[simp] theorem State.setTracker_turn : (s.setTracker src v).turn = s.turn := by cases src <;> rfl
@[simp] theorem State.setTracker_circuits : (s.setTracker src v).circuits = s.circuits := by cases src <;> rfl
@[simp] theorem State.setTracker_ramps : (s.setTracker src v).ramps = s.ramps := by cases src <;> rfl
@[simp] theorem State.setTracker_frameCount : (s.setTracker src v).frameCount = s.frameCount := by cases src <;> rfl
@[simp] theorem State.setTracker_refresh : (s.setTracker src v).refresh = s.refresh := by cases src <;> rfl
@[simp] theorem State.setTracker_mains : (s.setTracker src v).mains = s.mains := by cases src <;> rfl
@[simp] theorem State.setTracker_zones : (s.setTracker src v).zones = s.zones := by cases src <;> rfl
@[simp] theorem State.setTracker_flags : (s.setTracker src v).flags = s.flags := by cases src <;> rfl
@[simp] theorem State.setTracker_enables : (s.setTracker src v).enables = s.enables := by cases src <;> rfl
@[simp] theorem State.setTracker_framer : (s.setTracker src v).framer = s.framer := by cases src <;> rfl
@[simp] theorem State.setTracker_requests : (s.setTracker src v).requests = s.requests := by cases src <;> rfl
@[simp] theorem State.setTracker_replySlot : (s.setTracker src v).replySlot = s.replySlot := by cases src <;> rfl
@[simp] theorem State.setTracker_carrying : (s.setTracker src v).carrying = s.carrying := by cases src <;> rfl
@[simp] theorem State.setTracker_ahead : (s.setTracker src v).ahead = s.ahead := by cases src <;> rfl
@[simp] theorem State.setTracker_sending : (s.setTracker src v).sending = s.sending := by cases src <;> rfl
@[simp] theorem State.setTracker_reports : (s.setTracker src v).reports = s.reports := by cases src <;> rfl
@[simp] theorem State.setTracker_lost : (s.setTracker src v).lost = s.lost := by cases src <;> rfl
@[simp] theorem State.setTracker_silence : (s.setTracker src v).silence = s.silence := by cases src <;> rfl
@[simp] theorem State.setTracker_draws : (s.setTracker src v).draws = s.draws := by cases src <;> rfl
@[simp] theorem State.setTracker_pending : (s.setTracker src v).pending = s.pending := by cases src <;> rfl

@[simp] theorem State.tracker_setTracker_self : (s.setTracker src v).tracker src = v := by
  cases src <;> simp [State.setTracker, State.tracker]

end

theorem State.tracker_setTracker_ne {src other : Source} (v : Tracker) (s : State) (h : src ≠ other) :
    (s.setTracker src v).tracker other = s.tracker other := by
  cases src <;> cases other <;> simp only [State.setTracker, State.tracker, Table.get_set] <;> split <;>
    simp_all [Table.get_set]

/-- A tracker after one tracker is replaced. -/
theorem State.tracker_setTracker (src other : Source) (v : Tracker) (s : State) :
    (s.setTracker src v).tracker other = if src = other then v else s.tracker other := by
  by_cases h : src = other
  · subst h; simp
  · simp [h, State.tracker_setTracker_ne v s h]

/-- A state whose trackers and other fields are the same is the same. -/
theorem State.setTracker_tracker (src : Source) (s : State) : s.setTracker src (s.tracker src) = s := by
  cases src <;> simp [State.setTracker, State.tracker]

/-! ## Trackers do not depend on the other fields -/

theorem State.tracker_congr {s t : State} (h1 : t.contactTrackers = s.contactTrackers)
    (h2 : t.ladderTrackers = s.ladderTrackers) (h3 : t.stationTrackers = s.stationTrackers) (src : Source) :
    t.tracker src = s.tracker src := by
  cases src <;> simp [State.tracker, h1, h2, h3]

end Sys2Proof.Machine
end

