-- ==== Sys2Proof/Laws/Frames.lean ====
section
/-! SUPPORT. What each shared operation can change, once for each: everything else follows by rewriting with its frame. -/

namespace Sys2Proof.Machine

/-! ## The frames compose -/

theorem OnlyReports.refl (s : State) : OnlyReports s s := rfl
theorem OnlyZones.refl (s : State) : OnlyZones s s := rfl
theorem OnlyClaims.refl (s : State) : OnlyClaims s s := rfl
theorem OnlyActions.refl (s : State) : OnlyActions s s := rfl
theorem OnlyGestures.refl (s : State) : OnlyGestures s s := ⟨rfl, fun _ => rfl⟩

theorem OnlyReports.trans {s t u : State} (h : OnlyReports s t) (k : OnlyReports t u) : OnlyReports s u := by
  unfold OnlyReports at *; rw [k, h]
theorem OnlyZones.trans {s t u : State} (h : OnlyZones s t) (k : OnlyZones t u) : OnlyZones s u := by
  unfold OnlyZones at *; rw [k, h]
theorem OnlyClaims.trans {s t u : State} (h : OnlyClaims s t) (k : OnlyClaims t u) : OnlyClaims s u := by
  unfold OnlyClaims at *; rw [k, h]
theorem OnlyActions.trans {s t u : State} (h : OnlyActions s t) (k : OnlyActions t u) : OnlyActions s u := by
  unfold OnlyActions at *; rw [k, h]
theorem OnlyGestures.trans {s t u : State} (h : OnlyGestures s t) (k : OnlyGestures t u) : OnlyGestures s u := by
  refine ⟨by rw [k.fields, h.fields], fun a => ?_⟩
  rw [k.stations a, h.stations a]

theorem OnlyReports.zones {s t : State} (h : OnlyReports s t) : OnlyZones s t := by
  unfold OnlyReports OnlyZones at *; rw [h]
theorem OnlyReports.claims {s t : State} (h : OnlyReports s t) : OnlyClaims s t := by
  unfold OnlyReports OnlyClaims at *; rw [h]
theorem OnlyZones.actions {s t : State} (h : OnlyZones s t) : OnlyActions s t := by
  unfold OnlyZones OnlyActions at *; rw [h]
theorem OnlyClaims.actions {s t : State} (h : OnlyClaims s t) : OnlyActions s t := by
  unfold OnlyClaims OnlyActions at *; rw [h]
theorem OnlyActions.gestures {s t : State} (h : OnlyActions s t) : OnlyGestures s t := by
  unfold OnlyActions at h
  exact ⟨by rw [h], fun a => by rw [h]⟩

/-- A frame holds through a fold when it holds of each turn. -/
theorem foldl_frame {α : Type} {R : State → State → Prop} (refl : ∀ s, R s s)
    (trans : ∀ {s t u}, R s t → R t u → R s u) {f : State → α → State} (step : ∀ s a, R s (f s a)) (l : List α)
    (s : State) : R s (l.foldl f s) := by
  induction l generalizing s with
  | nil => exact refl s
  | cons a l ih => exact trans (step s a) (ih _)

/-! ## Reports, ramps, the transmitter -/

theorem raise_frame (r : Report) (s : State) : OnlyReports s (raise r s) := by
  unfold OnlyReports raise; split <;> (try split) <;> rfl

@[simp] theorem raise_power (r : Report) (s : State) : (raise r s).power = s.power := by
  unfold raise; split <;> (try split) <;> rfl
@[simp] theorem raise_settings (r : Report) (s : State) : (raise r s).settings = s.settings := by
  unfold raise; split <;> (try split) <;> rfl
@[simp] theorem raise_image (r : Report) (s : State) : (raise r s).image = s.image := by
  unfold raise; split <;> (try split) <;> rfl
@[simp] theorem raise_saving (r : Report) (s : State) : (raise r s).saving = s.saving := by
  unfold raise; split <;> (try split) <;> rfl
@[simp] theorem raise_causes (r : Report) (s : State) : (raise r s).causes = s.causes := by
  unfold raise; split <;> (try split) <;> rfl
@[simp] theorem raise_inputs (r : Report) (s : State) : (raise r s).inputs = s.inputs := by
  unfold raise; split <;> (try split) <;> rfl
@[simp] theorem raise_ladders (r : Report) (s : State) : (raise r s).ladders = s.ladders := by
  unfold raise; split <;> (try split) <;> rfl
@[simp] theorem raise_stations (r : Report) (s : State) : (raise r s).stations = s.stations := by
  unfold raise; split <;> (try split) <;> rfl
@[simp] theorem raise_turn (r : Report) (s : State) : (raise r s).turn = s.turn := by
  unfold raise; split <;> (try split) <;> rfl
@[simp] theorem raise_contactTrackers (r : Report) (s : State) : (raise r s).contactTrackers = s.contactTrackers := by
  unfold raise; split <;> (try split) <;> rfl
@[simp] theorem raise_ladderTrackers (r : Report) (s : State) : (raise r s).ladderTrackers = s.ladderTrackers := by
  unfold raise; split <;> (try split) <;> rfl
@[simp] theorem raise_stationTrackers (r : Report) (s : State) : (raise r s).stationTrackers = s.stationTrackers := by
  unfold raise; split <;> (try split) <;> rfl
@[simp] theorem raise_circuits (r : Report) (s : State) : (raise r s).circuits = s.circuits := by
  unfold raise; split <;> (try split) <;> rfl
@[simp] theorem raise_ramps (r : Report) (s : State) : (raise r s).ramps = s.ramps := by
  unfold raise; split <;> (try split) <;> rfl
@[simp] theorem raise_frameCount (r : Report) (s : State) : (raise r s).frameCount = s.frameCount := by
  unfold raise; split <;> (try split) <;> rfl
@[simp] theorem raise_refresh (r : Report) (s : State) : (raise r s).refresh = s.refresh := by
  unfold raise; split <;> (try split) <;> rfl
@[simp] theorem raise_mains (r : Report) (s : State) : (raise r s).mains = s.mains := by
  unfold raise; split <;> (try split) <;> rfl
@[simp] theorem raise_zones (r : Report) (s : State) : (raise r s).zones = s.zones := by
  unfold raise; split <;> (try split) <;> rfl
@[simp] theorem raise_flags (r : Report) (s : State) : (raise r s).flags = s.flags := by
  unfold raise; split <;> (try split) <;> rfl
@[simp] theorem raise_enables (r : Report) (s : State) : (raise r s).enables = s.enables := by
  unfold raise; split <;> (try split) <;> rfl
@[simp] theorem raise_framer (r : Report) (s : State) : (raise r s).framer = s.framer := by
  unfold raise; split <;> (try split) <;> rfl
@[simp] theorem raise_requests (r : Report) (s : State) : (raise r s).requests = s.requests := by
  unfold raise; split <;> (try split) <;> rfl
@[simp] theorem raise_replySlot (r : Report) (s : State) : (raise r s).replySlot = s.replySlot := by
  unfold raise; split <;> (try split) <;> rfl
@[simp] theorem raise_carrying (r : Report) (s : State) : (raise r s).carrying = s.carrying := by
  unfold raise; split <;> (try split) <;> rfl
@[simp] theorem raise_ahead (r : Report) (s : State) : (raise r s).ahead = s.ahead := by
  unfold raise; split <;> (try split) <;> rfl
@[simp] theorem raise_sending (r : Report) (s : State) : (raise r s).sending = s.sending := by
  unfold raise; split <;> (try split) <;> rfl
@[simp] theorem raise_silence (r : Report) (s : State) : (raise r s).silence = s.silence := by
  unfold raise; split <;> (try split) <;> rfl
@[simp] theorem raise_draws (r : Report) (s : State) : (raise r s).draws = s.draws := by
  unfold raise; split <;> (try split) <;> rfl
@[simp] theorem raise_pending (r : Report) (s : State) : (raise r s).pending = s.pending := by
  unfold raise; split <;> (try split) <;> rfl

/-- All that raising a report can do (R181). -/
theorem raise_reports (r : Report) (s : State) :
    (raise r s = s ∧ s.settings.general.reportMask.getLsbD r.category.bit = false) ∨
    (raise r s = { s with reports := s.reports ++ [r] } ∧ s.reports.length < 32) ∨
    (raise r s = { s with lost := min 255 (s.lost + 1) } ∧ 32 ≤ s.reports.length) := by
  unfold raise; split
  · split
    · exact .inr (.inl ⟨rfl, by assumption⟩)
    · exact .inr (.inr ⟨rfl, by omega⟩)
  · exact .inl ⟨rfl, by simp_all⟩

theorem endRamps_frame (w : Ramp → Bool) (s : State) : endRamps w s = { s with ramps := s.ramps.filter fun r => !w r } := rfl

/-- The transmitter starts at most one frame: it changes what is being sent, the reply slot and the report queue alone, with
how many of its reports stand ahead of those of the request in hand. -/
theorem serve_frame (s : State) :
    serve s = { s with
      sending := (serve s).sending, replySlot := (serve s).replySlot, reports := (serve s).reports,
      ahead := (serve s).ahead } := by
  unfold serve; split
  · rfl
  · split
    · rfl
    · split
      · split <;> rfl
      · rfl

@[simp] theorem serve_power (s : State) : (serve s).power = s.power := by rw [serve_frame]
@[simp] theorem serve_settings (s : State) : (serve s).settings = s.settings := by rw [serve_frame]
@[simp] theorem serve_image (s : State) : (serve s).image = s.image := by rw [serve_frame]
@[simp] theorem serve_saving (s : State) : (serve s).saving = s.saving := by rw [serve_frame]
@[simp] theorem serve_causes (s : State) : (serve s).causes = s.causes := by rw [serve_frame]
@[simp] theorem serve_inputs (s : State) : (serve s).inputs = s.inputs := by rw [serve_frame]
@[simp] theorem serve_ladders (s : State) : (serve s).ladders = s.ladders := by rw [serve_frame]
@[simp] theorem serve_stations (s : State) : (serve s).stations = s.stations := by rw [serve_frame]
@[simp] theorem serve_turn (s : State) : (serve s).turn = s.turn := by rw [serve_frame]
@[simp] theorem serve_contactTrackers (s : State) : (serve s).contactTrackers = s.contactTrackers := by rw [serve_frame]
@[simp] theorem serve_ladderTrackers (s : State) : (serve s).ladderTrackers = s.ladderTrackers := by rw [serve_frame]
@[simp] theorem serve_stationTrackers (s : State) : (serve s).stationTrackers = s.stationTrackers := by rw [serve_frame]
@[simp] theorem serve_circuits (s : State) : (serve s).circuits = s.circuits := by rw [serve_frame]
@[simp] theorem serve_ramps (s : State) : (serve s).ramps = s.ramps := by rw [serve_frame]
@[simp] theorem serve_frameCount (s : State) : (serve s).frameCount = s.frameCount := by rw [serve_frame]
@[simp] theorem serve_refresh (s : State) : (serve s).refresh = s.refresh := by rw [serve_frame]
@[simp] theorem serve_mains (s : State) : (serve s).mains = s.mains := by rw [serve_frame]
@[simp] theorem serve_zones (s : State) : (serve s).zones = s.zones := by rw [serve_frame]
@[simp] theorem serve_flags (s : State) : (serve s).flags = s.flags := by rw [serve_frame]
@[simp] theorem serve_enables (s : State) : (serve s).enables = s.enables := by rw [serve_frame]
@[simp] theorem serve_framer (s : State) : (serve s).framer = s.framer := by rw [serve_frame]
@[simp] theorem serve_requests (s : State) : (serve s).requests = s.requests := by rw [serve_frame]
@[simp] theorem serve_carrying (s : State) : (serve s).carrying = s.carrying := by rw [serve_frame]
@[simp] theorem serve_lost (s : State) : (serve s).lost = s.lost := by rw [serve_frame]
@[simp] theorem serve_silence (s : State) : (serve s).silence = s.silence := by rw [serve_frame]
@[simp] theorem serve_draws (s : State) : (serve s).draws = s.draws := by rw [serve_frame]
@[simp] theorem serve_pending (s : State) : (serve s).pending = s.pending := by rw [serve_frame]
@[simp] theorem serve_tracker (s : State) (src : Source) : (serve s).tracker src = s.tracker src :=
  State.tracker_congr (serve_contactTrackers s) (serve_ladderTrackers s) (serve_stationTrackers s) src

/-- All that the transmitter's choice can do (R180). -/
theorem serve_cases (s : State) :
    (∃ o, s.sending = some o ∧ serve s = s) ∨
    (∃ f, s.sending = none ∧ s.replySlot = some f ∧
      serve s = { s with sending := some (.reply f), replySlot := none }) ∨
    (∃ r rest, s.sending = none ∧ s.replySlot = none ∧ s.reports = r :: rest ∧ s.ahead ≠ some 0 ∧
      serve s = { s with sending := some (.report r), reports := rest, ahead := s.ahead.map (· - 1) }) ∨
    (s.sending = none ∧ s.replySlot = none ∧ (s.reports = [] ∨ s.ahead = some 0) ∧ serve s = s) := by
  unfold serve
  cases h1 : s.sending with
  | some o => exact .inl ⟨o, rfl, rfl⟩
  | none =>
    cases h2 : s.replySlot with
    | some f => exact .inr (.inl ⟨f, rfl, rfl, rfl⟩)
    | none =>
      cases h3 : s.reports with
      | nil => exact .inr (.inr (.inr ⟨rfl, rfl, .inl rfl, rfl⟩))
      | cons r rest =>
        by_cases h4 : s.ahead = some 0
        · exact .inr (.inr (.inr ⟨rfl, rfl, .inr h4, if_pos h4⟩))
        · exact .inr (.inr (.inl ⟨r, rest, rfl, rfl, rfl, h4, if_neg h4⟩))

/-- Whether a zone is called does not depend on the transmitter. -/
@[simp] theorem serve_called (s : State) (z : ZoneId) : called (serve s) z = called s z := by rw [serve_frame]; rfl

/-! ## The zone unit -/

theorem enterZone_frame (z : ZoneId) (n : ZoneStateName) (s : State) : OnlyZones s (enterZone z n s) := by
  unfold enterZone
  refine OnlyZones.trans ?_ (raise_frame _ _).zones
  split <;> rfl

theorem reevaluate_frame (z : ZoneId) (s : State) : OnlyZones s (reevaluate z s) := by
  unfold reevaluate
  split <;> first | exact enterZone_frame _ _ _ | exact OnlyZones.refl s

theorem reevaluateWhere_frame (p : ZoneId → Bool) (s : State) : OnlyZones s (reevaluateWhere p s) := by
  unfold reevaluateWhere
  refine foldl_frame OnlyZones.refl OnlyZones.trans (fun s z => ?_) _ s
  split
  · exact reevaluate_frame z s
  · exact OnlyZones.refl s

theorem forceZone_frame (z : ZoneId) (s : State) : OnlyZones s (forceZone z s) := by
  unfold forceZone; split
  · exact OnlyZones.refl s
  · refine OnlyZones.trans ?_ (reevaluate_frame _ _); rfl

theorem releaseZone_frame (z : ZoneId) (s : State) : OnlyZones s (releaseZone z s) := by
  unfold releaseZone; dsimp only; split
  · rfl
  · refine OnlyZones.trans ?_ (enterZone_frame _ _ _); rfl

theorem changeFlags_frame (v : BitVec 8) (s : State) : OnlyActions s (changeFlags v s) := by
  unfold changeFlags
  refine OnlyActions.trans ?_ (reevaluateWhere_frame _ _).actions; rfl

/-- The flags after a change are the new ones (R137). -/
@[simp] theorem changeFlags_flags (v : BitVec 8) (s : State) : (changeFlags v s).flags = v := by
  unfold changeFlags
  have h := reevaluateWhere_frame
    (fun z => decide ((s.settings.zones.get z).mask &&& (s.flags ^^^ v).setWidth 12 ≠ 0)) { s with flags := v }
  unfold OnlyZones at h
  dsimp only
  rw [h]

/-! ## The claim arbiter -/

theorem place_frame (c : CircuitId) (n : Claim) (fade : Nat) (s : State) : OnlyClaims s (place c n fade s) := by
  unfold place; dsimp only; split
  · rfl
  · refine OnlyClaims.trans ?_ (raise_frame _ _).claims; rfl
  · exact (raise_frame _ _).claims

theorem changeCircuits_frame (f : CircuitSettings → Circuit → Circuit) (s : State) :
    changeCircuits f s = { s with circuits := Table.zipWith f s.settings.circuits s.circuits } := rfl

@[simp] theorem changeCircuits_get (f : CircuitSettings → Circuit → Circuit) (s : State) (c : CircuitId) :
    (changeCircuits f s).circuits.get c = f (s.settings.circuits.get c) (s.circuits.get c) := by
  simp [changeCircuits]

theorem placeScene_frame (sc : SceneId) (cls : ClaimClass) (z : Option ZoneId) (fade : Option Nat) (s : State) :
    OnlyClaims s (placeScene sc cls z fade s) :=
  foldl_frame OnlyClaims.refl OnlyClaims.trans (fun _ _ => place_frame _ _ _ _) _ s

theorem placeMissing_frame (sc : SceneId) (cls : ClaimClass) (z : ZoneId) (s : State) :
    OnlyClaims s (placeMissing sc cls z s) := by
  refine foldl_frame OnlyClaims.refl OnlyClaims.trans (fun s e => ?_) _ s
  split
  · exact OnlyClaims.refl s
  · exact place_frame _ _ _ _

theorem withdraw_frame (c : CircuitId) (k : Key) (fade : Nat) (s : State) : OnlyClaims s (withdraw c k fade s) := rfl
theorem withdrawEverywhere_frame (k : Key) (fade : Nat) (s : State) : OnlyClaims s (withdrawEverywhere k fade s) := rfl
theorem withdrawScene_frame (sc : SceneId) (cls : ClaimClass) (fade : Option Nat) (s : State) :
    OnlyClaims s (withdrawScene sc cls fade s) := rfl
theorem clearZone_frame (z : ZoneId) (fade : Option Nat) (s : State) : OnlyClaims s (clearZone z fade s) := rfl

theorem requestRamp_frame (r : Ramp) (s : State) :
    requestRamp r s = { s with ramps := (requestRamp r s).ramps, reports := (requestRamp r s).reports,
                               lost := (requestRamp r s).lost } := by
  unfold requestRamp; split
  · rfl
  · split
    · rfl
    · have h := raise_frame (.rampRefused r.binding r.scene) s
      unfold OnlyReports at h
      rw [h]

theorem requestRamp_actions (r : Ramp) (s : State) : OnlyActions s (requestRamp r s) := by
  unfold OnlyActions; rw [requestRamp_frame]

/-! ## A binding's action -/

theorem runAction_frame (b : SlotId) (x : Binding) (s : State) : OnlyActions s (runAction b x s) := by
  unfold runAction
  split
  · exact (placeScene_frame _ _ _ _ _).actions
  · exact (withdrawScene_frame _ _ _ _).actions
  · unfold actSceneToggle; split
    · exact (withdrawScene_frame _ _ _ _).actions
    · exact (placeScene_frame _ _ _ _ _).actions
  · exact (place_frame _ _ _ _).actions
  · exact (withdraw_frame _ _ _ _).actions
  · exact (placeMissing_frame _ _ _ _).actions.trans (requestRamp_actions _ _)
  · exact requestRamp_actions _ _
  · exact (clearZone_frame _ _ _).actions
  · exact changeFlags_frame _ _
  · exact changeFlags_frame _ _
  · exact changeFlags_frame _ _
  · exact (forceZone_frame _ _).actions
  · exact (releaseZone_frame _ _).actions
  · exact OnlyActions.refl s

/-! ## A request taken -/

/-- The entry at the head of a queue that holds one is taken without a receipt (R176). -/
theorem dequeue_head (e : Entry) {s : State} {q : Entry} (h : s.requests.head? = some q) :
    dequeue e s = { s with requests := s.requests.tail, carrying := true, ahead := some s.reports.length } := by
  unfold dequeue
  cases hr : s.requests with
  | nil => rw [hr] at h; cases h
  | cons a l => simp [hr]

/-- A request that heads the queue is carried out and answered (R176 to R178, R180). -/
theorem request_headed {k : Byte} {carry : List Byte → State → Answer} {p : List Byte} {s : State}
    (h : RequestHeads k p s) : request k carry p s = .next (serve
      { (carry p s.taken).state with replySlot := some (replyFrame k (carry p s.taken)), carrying := false, ahead := none }) := by
  obtain ⟨hp, hs, hq⟩ := h
  have ht : takable (.request k p) s = true := by
    unfold takable
    cases hr : s.requests with
    | nil => rw [hr] at hq; cases hq
    | cons q l => rw [hr] at hq; simp at hq; simp [hs, hq]
  have hd : dequeue (.request k p) s = s.taken := dequeue_head _ hq
  unfold request eventIf whenRunning takeRequest take
  rw [if_pos hp]
  beta_reduce
  rw [if_pos ht, hd]

/-! ## Outcomes -/

variable {P : State → Prop}

/-- Every next state of an outcome has a property. -/
def Gives (P : State → Prop) (o : Host.Outcome State Fault Refusal) : Prop := ∀ t, o = .next t → P t

theorem Gives.next {s : State} (h : P s) : Gives P (.next s) := by
  intro t e; cases e; exact h

theorem whenRunning_gives {f : State → State} {s : State} (h : P s) (hf : s.power = .running → P (f s)) :
    Gives P (whenRunning f s) := by
  unfold whenRunning; split
  · next hr => exact Gives.next (hf hr)
  · exact Gives.next h

theorem eventIf_gives {p : State → Bool} {f : State → State} {s : State} (hs : ∀ s, P s → P (serve s)) (h : P s)
    (hf : s.power = .running → p s = true → P (f s)) : Gives P (eventIf p f s) := by
  refine whenRunning_gives h fun hr => ?_
  split
  · next hp => exact hs _ (hf hr hp)
  · exact h

theorem event_gives {f : State → State} {s : State} (hs : ∀ s, P s → P (serve s)) (h : P s)
    (hf : s.power = .running → P (f s)) : Gives P (event f s) := whenRunning_gives h fun hr => hs _ (hf hr)

end Sys2Proof.Machine
end

