-- ==== Sys2Proof/Laws/Ticks.lean ====
section
/-! SUPPORT. What a tick, a change of the mains tracker and a change of the silence timer can change, once for each (R123,
R165, R168, R174). -/

namespace Sys2Proof.Machine

/-! ## The tick -/

/-- Nothing but the circuits (R127). -/
theorem stepRamp_frame (s : State) (r : Ramp) : stepRamp s r = { s with circuits := (stepRamp s r).circuits } := by
  unfold stepRamp; split <;> rfl

theorem foldl_stepRamp_frame (l : List Ramp) (s : State) :
    l.foldl stepRamp s = { s with circuits := (l.foldl stepRamp s).circuits } := by
  induction l generalizing s with
  | nil => rfl
  | cons r l ih =>
    rw [List.foldl_cons, ih, stepRamp_frame s r]

/-- Stage 1 changes the circuits, and every ramp's accumulator (R126). -/
theorem stepRamps_frame (s : State) :
    stepRamps s = { s with circuits := (stepRamps s).circuits, ramps := s.ramps.map Ramp.advance } := by
  unfold stepRamps
  rw [foldl_stepRamp_frame]

/-- Without a ramp stage 1 does nothing. -/
theorem stepRamps_none {s : State} (h : s.ramps = []) : stepRamps s = s := by
  unfold stepRamps; rw [h]; cases s; cases h; rfl

/-- After a tick each circuit's record is the one after the ramps, with its fade step taken and its output worked out
(R121, R123). -/
theorem runTick_circuit (s : State) (c : CircuitId) :
    (runTick s).circuits.get c = ((stepRamps (passTime s)).circuits.get c).fadeStep.convert
      (mainsLocked s) (s.settings.circuits.get c) := by
  have e := stepRamps_frame (passTime s)
  have h : (stepRamps (passTime s)).settings = s.settings := by rw [e]; rfl
  have m : mainsLocked (stepRamps (passTime s)) = mainsLocked s := by rw [e]; rfl
  unfold runTick levelTick startRefresh stepCircuits changeCircuits
  dsimp only
  rw [Table.get_zipWith, h, m]

/-- A tick that counts no time reaches the circuits, the ramps and the refresh frame alone (R123, R126, R165). -/
theorem levelTick_frame (s : State) :
    levelTick s = { s with
      circuits := (levelTick s).circuits, ramps := s.ramps.map Ramp.advance, refresh := (levelTick s).refresh,
      frameCount := s.frameCount + 1 } := by
  have e := stepRamps_frame s
  unfold levelTick startRefresh stepCircuits changeCircuits
  dsimp only
  rw [e]

/-- Two states that agree on what the ramps read. -/
def RampAlike (s t : State) : Prop :=
  s.settings = t.settings ∧ ∀ c, (s.circuits.get c).level = (t.circuits.get c).level ∧
    (s.circuits.get c).fade = (t.circuits.get c).fade ∧ (s.circuits.get c).claims = (t.circuits.get c).claims

theorem stepRamp_alike {s t : State} (h : RampAlike s t) (r : Ramp) : RampAlike (stepRamp s r) (stepRamp t r) := by
  unfold stepRamp; split
  · exact h
  · refine ⟨h.1, fun c => ?_⟩
    obtain ⟨h1, h2, h3⟩ := h.2 c
    unfold changeCircuits Ramp.moveCircuit; dsimp only
    rw [Table.get_zipWith, Table.get_zipWith, h.1, h3]
    split
    · split <;> simp [h1, h2]
    · simp [h1, h2]

/-- The passing of time makes no difference to what the ramps do. -/
theorem stepRamps_passTime (s : State) : RampAlike (stepRamps (passTime s)) (stepRamps s) := by
  have key : ∀ (l : List Ramp) (s t : State), RampAlike s t → RampAlike (l.foldl stepRamp s) (l.foldl stepRamp t) := by
    intro l
    induction l with
    | nil => exact fun _ _ h => h
    | cons r l ih => exact fun _ _ h => ih _ _ (stepRamp_alike h r)
  exact key s.ramps (passTime s) s ⟨rfl, fun c => by simp [passTime]⟩

/-- What a tick leaves alone, and what becomes of the rest that is not a circuit (R123, R126, R165). -/
theorem runTick_frame (s : State) :
    runTick s = { passTime s with
      circuits := (runTick s).circuits, ramps := s.ramps.map Ramp.advance, refresh := (runTick s).refresh,
      frameCount := s.frameCount + 1 } := levelTick_frame (passTime s)

/-- A tick reaches the circuits, the ramps and the refresh frame, and besides these only remaining times (R123, R165). -/
theorem runTick_only (s : State) : OnlyLevelsAndTimes s (runTick s) := by
  have e := runTick_frame s
  have k : ∀ o : Option Nat, (countDown o).isSome = o.isSome := fun o => by cases o <;> rfl
  refine ⟨by rw [e]; rfl, fun src => ?_, fun a => ?_, ⟨fun h => ?_, fun tn h => ?_⟩, ?_, fun z => ?_, ?_, ?_⟩
  · cases src <;> rw [e] <;> simp [State.tracker, passTime, Tracker.passTime, k]
  · rw [e]; simp [passTime, k]
  · rw [e]; simp [passTime, h]
  · rw [e]; exact ⟨countDown tn.window, by simp [passTime, h], k _⟩
  · rw [e]; exact ⟨rfl, k _⟩
  · rw [e]; simp [passTime, k]
  · rw [e]; cases h : s.framer <;> simp [passTime, h, Framer.passTime]
  · rw [e]; cases h : s.silence <;> simp [passTime, h, SilenceTimer.passTime]

/-! ## The mains tracker and the silence timer -/

/-- A change of the tracker applies the changes that wait at a crossing where it leaves LOCKED, and then reaches only zones
and what zones reach (R162, R170). -/
theorem changeMains_frame (m : Mains) (s : State) :
    OnlyZones { s with
      mains := m
      circuits := if s.mains.state = .locked ∧ m.state ≠ .locked then (applyCrossings s).circuits else s.circuits }
      (changeMains m s) := by
  unfold changeMains; dsimp only
  have h : (if s.mains.state = .locked ∧ m.state ≠ .locked then applyCrossings { s with mains := m }
      else { s with mains := m }) = { s with
        mains := m
        circuits := if s.mains.state = .locked ∧ m.state ≠ .locked then (applyCrossings s).circuits
          else s.circuits } := by
    split <;> rfl
  rw [h]
  generalize ({ s with
    mains := m
    circuits := if s.mains.state = .locked ∧ m.state ≠ .locked then (applyCrossings s).circuits
      else s.circuits } : State) = u
  refine OnlyZones.trans (t := if s.mains.state = m.state then u else raise (.mains m.state m.lastInterval) u) ?_ ?_
  · split
    · exact OnlyZones.refl u
    · exact (raise_frame _ u).zones
  · generalize (if s.mains.state = m.state then u else raise (.mains m.state m.lastInterval) u) = v
    split
    · exact OnlyZones.refl _
    · exact reevaluateWhere_frame _ _

/-- A change of the silence timer reaches only zones and what zones reach (R174). -/
theorem setSilence_frame (t : SilenceTimer) (s : State) : OnlyZones { s with silence := t } (setSilence t s) := by
  unfold setSilence; dsimp only; split
  · exact OnlyZones.refl _
  · exact reevaluateWhere_frame _ _

end Sys2Proof.Machine
end

