-- ==== Sys2Proof/Laws/Comings.lean ====
section
/-! SUPPORT. What a command that comes between two bindings of one dispatch can change, once for all of them (R64, R85, R107,
R148). -/

namespace Sys2Proof.Machine

/-- Nothing but what may come between two bindings of a dispatch of source `src` reaches. -/
structure OnlyBetween (src : Source) (s t : State) : Prop where
  fields : t = { s with
    settings := { s.settings with
      scenes := t.settings.scenes, circuits := t.settings.circuits, zones := t.settings.zones,
      annunciators := t.settings.annunciators, general := t.settings.general }
    image := t.image, saving := t.saving, causes := t.causes, ladders := t.ladders, stations := t.stations, turn := t.turn,
    circuits := t.circuits, ramps := t.ramps, frameCount := t.frameCount, refresh := t.refresh, mains := t.mains,
    zones := t.zones, flags := t.flags, enables := t.enables, framer := t.framer, requests := t.requests,
    replySlot := t.replySlot, ahead := t.ahead, sending := t.sending, reports := t.reports, lost := t.lost, silence := t.silence,
    draws := t.draws }
  ahead : s.carrying = false → s.ahead = none → t.ahead = none
  bus : ofStation src = true → t.turn = s.turn ∧ t.stations = s.stations
  sampler : ofLadder src = true ∨ s.carrying = true → t.ladders = s.ladders
  carried : s.carrying = true → t.settings = s.settings ∧ t.enables = s.enables

variable {src : Source} {s t u : State}

theorem OnlyBetween.refl (s : State) : OnlyBetween src s s :=
  ⟨rfl, fun _ h => h, fun _ => ⟨rfl, rfl⟩, fun _ => rfl, fun _ => ⟨rfl, rfl⟩⟩

theorem OnlyBetween.carrying (h : OnlyBetween src s t) : t.carrying = s.carrying := by rw [h.fields]

theorem OnlyBetween.trans (h : OnlyBetween src s t) (k : OnlyBetween src t u) : OnlyBetween src s u := by
  refine ⟨by rw [k.fields, h.fields], fun hc ha => k.ahead (h.carrying.trans hc) (h.ahead hc ha), fun hs => ?_, fun hl => ?_,
    fun hc => ?_⟩
  · exact ⟨(k.bus hs).1.trans (h.bus hs).1, (k.bus hs).2.trans (h.bus hs).2⟩
  · exact (k.sampler (h.carrying ▸ hl)).trans (h.sampler hl)
  · obtain ⟨k1, k2⟩ := k.carried (h.carrying ▸ hc)
    exact ⟨k1.trans (h.carried hc).1, k2.trans (h.carried hc).2⟩

theorem OnlyActions.between (h : OnlyActions s t) : OnlyBetween src s t := by
  unfold OnlyActions at h
  rw [h]
  exact ⟨rfl, fun _ h => h, fun _ => ⟨rfl, rfl⟩, fun _ => rfl, fun _ => ⟨rfl, rfl⟩⟩

theorem OnlyZones.between (h : OnlyZones s t) : OnlyBetween src s t := h.actions.between
theorem OnlyReports.between (h : OnlyReports s t) : OnlyBetween src s t := h.zones.between

theorem serve_between (s : State) : OnlyBetween src s (serve s) := by
  refine ⟨?_, fun _ h => ?_, fun _ => ⟨by simp, by simp⟩, fun _ => by simp, fun _ => ⟨by simp, by simp⟩⟩
  · rw [serve_frame]
  · rcases serve_cases s with ⟨_, _, e⟩ | ⟨_, _, _, e⟩ | ⟨_, _, _, _, _, _, e⟩ | ⟨_, _, _, e⟩ <;> rw [e] <;> simp [h]

/-! ## The events -/

theorem levelTick_between (s : State) : OnlyBetween src s (levelTick s) := by
  rw [levelTick_frame]
  exact ⟨rfl, fun _ h => h, fun _ => ⟨rfl, rfl⟩, fun _ => rfl, fun _ => ⟨rfl, rfl⟩⟩

theorem changeMains_between (m : Mains) (s : State) : OnlyBetween src s (changeMains m s) := by
  refine .trans ?_ (changeMains_frame m s).between
  exact ⟨rfl, fun _ h => h, fun _ => ⟨rfl, rfl⟩, fun _ => rfl, fun _ => ⟨rfl, rfl⟩⟩

theorem setSilence_between (t : SilenceTimer) (s : State) : OnlyBetween src s (setSilence t s) := by
  refine .trans ?_ (setSilence_frame t s).between
  exact ⟨rfl, fun _ h => h, fun _ => ⟨rfl, rfl⟩, fun _ => rfl, fun _ => ⟨rfl, rfl⟩⟩

theorem crossMains_between (moment : Nat) (s : State) : OnlyBetween src s (crossMains moment s) := by
  unfold crossMains takeCrossing; dsimp only
  refine .trans ?_ (changeMains_between _ _)
  have key : ∀ v : State, OnlyBetween src v (if mainsLocked v then applyCrossings v else v) := fun v => by
    split
    · exact ⟨rfl, fun _ h => h, fun _ => ⟨rfl, rfl⟩, fun _ => rfl, fun _ => ⟨rfl, rfl⟩⟩
    · exact .refl v
  refine .trans ?_ (key _)
  split
  · exact changeMains_between _ _
  · exact .refl s

theorem receiveEntry_between (e : Entry) (s : State) : OnlyBetween src s (receiveEntry e s) := by
  have key : ∀ v : State, OnlyBetween src v (enqueue e v) := fun v => by
    unfold enqueue; split
    · exact ⟨rfl, fun _ h => h, fun _ => ⟨rfl, rfl⟩, fun _ => rfl, fun _ => ⟨rfl, rfl⟩⟩
    · exact .refl v
  unfold receiveEntry; split
  · exact (setSilence_between _ s).trans (key _)
  · exact key s

theorem takeCharacter_between (c : Byte) (e : Bool) (s : State) : OnlyBetween src s (takeCharacter c e s) := by
  have key : ∀ f : Framer, OnlyBetween src s { s with framer := f } := fun f =>
    ⟨rfl, fun _ h => h, fun _ => ⟨rfl, rfl⟩, fun _ => rfl, fun _ => ⟨rfl, rfl⟩⟩
  unfold takeCharacter; split
  · exact key _
  · unfold goodCharacter; split
    · split
      · exact key _
      · exact .refl s
    · split <;> exact key _
    · split
      · exact key _
      · exact (key _).trans (receiveEntry_between _ _)

/-! ## The bus and the channels -/

theorem setStation_between (h : busFree src s = true) (a : StationId) (v : StationState) (t : State) :
    OnlyBetween src t (t.setStation a v) :=
  ⟨rfl, fun _ h => h, fun hs => by simp [busFree, hs] at h, fun _ => rfl, fun _ => ⟨rfl, rfl⟩⟩

theorem setTurn_between (h : busFree src s = true) (tn : Option Turn) (t : State) :
    OnlyBetween src t { t with turn := tn } :=
  ⟨rfl, fun _ h => h, fun hs => by simp [busFree, hs] at h, fun _ => rfl, fun _ => ⟨rfl, rfl⟩⟩

theorem enterStation_between (h : busFree src s = true) (a : StationId) (v : StationState) (t : State) :
    OnlyBetween src t (enterStation a v t) := by
  unfold enterStation; split
  · exact setStation_between h _ _ _
  · exact (setStation_between h _ _ _).trans (raise_frame _ _).between

theorem foldl_same {α : Type} (l : List α) (s : State) : l.foldl (fun s _ => s) s = s := by
  induction l with
  | nil => rfl
  | cons a l ih => exact ih

/-- Releasing nothing does nothing. -/
theorem releaseStationBy_nothing (a : StationId) (s : State) : releaseStationBy releaseNothing a s = s :=
  foldl_same _ s

theorem deferredTransition_between (h : busFree src s = true) (a : StationId) (t : State) :
    OnlyBetween src t (deferredTransitionBy releaseNothing a t) := by
  unfold deferredTransitionBy restartStationBy
  simp only [releaseStationBy_nothing, ite_self, id]
  exact (enterStation_between h _ _ _).trans (reevaluateWhere_frame _ _).between

theorem goMissing_between (h : busFree src s = true) (a : StationId) (t : State) :
    OnlyBetween src t (goMissingBy releaseNothing a t) := by
  unfold goMissingBy
  simp only [releaseStationBy_nothing]
  exact (enterStation_between h _ _ _).trans (reevaluate_frame _ _).between

theorem failTurn_between (h : busFree src s = true) (tn : Turn) (bad : Bool) (t : State) :
    OnlyBetween src t (failTurnBy releaseNothing tn bad t) := by
  unfold failTurnBy; dsimp only
  refine .trans ?_ (setTurn_between h _ _)
  have hc : OnlyBetween src t (countFailure tn.address bad t) := setStation_between h _ _ _
  split
  · exact hc.trans (deferredTransition_between h _ _)
  · split
    · exact hc
    · split
      · exact hc.trans (goMissing_between h _ _)
      · exact hc.trans (setStation_between h _ _ _)

theorem identTurn_between (h : busFree src s = true) (tn : Turn) (c : Byte) (n : Nat) (t : State) :
    OnlyBetween src t (identTurnBy releaseNothing tn c n t) := by
  unfold identTurnBy; dsimp only
  refine .trans ?_ (setTurn_between h _ _)
  split
  · exact deferredTransition_between h _ _
  · exact (enterStation_between h _ _ _).trans (reevaluate_frame _ _).between

theorem forButton_nothing (ch : ChannelId) (n : Nat) (s : State) : forButton ch n releaseNothing s = s := by
  unfold forButton; split <;> rfl

theorem setLadder_between (h : samplerFree src s = true) (ch : ChannelId) (v : LadderState) :
    OnlyBetween src s (s.setLadder ch v) := by
  refine ⟨rfl, fun _ h => h, fun _ => ⟨rfl, rfl⟩, fun hl => ?_, fun _ => ⟨rfl, rfl⟩⟩
  rcases hl with hl | hl <;> simp [samplerFree, linkFree, hl] at h

theorem ladderMadeKnown_between (ch : ChannelId) (n : ChannelState) (s : State) :
    OnlyBetween src s (ladderMadeKnown ch n s) :=
  ((raise_frame _ _).between).trans (reevaluate_frame _ _).between

theorem enterFault_between (h : samplerFree src s = true) (ch : ChannelId) :
    OnlyBetween src s (enterFaultBy releaseNothing ch s) := by
  unfold enterFaultBy
  simp only [forButton_nothing]
  exact (setLadder_between h _ _).trans (ladderMadeKnown_between _ _ _)

theorem faultSample_between (h : samplerFree src s = true) (ch : ChannelId) (n : Nat) :
    OnlyBetween src s (faultSample ch n s) := by
  unfold faultSample; split
  · exact (setLadder_between h _ _).trans (ladderMadeKnown_between _ _ _)
  · exact setLadder_between h _ _

/-! ## The requests -/

/-- What carrying out a request may change where it comes between two bindings. -/
structure OnlyCarried (src : Source) (s t : State) : Prop where
  fields : t = { s with
    settings := { s.settings with
      scenes := t.settings.scenes, circuits := t.settings.circuits, zones := t.settings.zones,
      annunciators := t.settings.annunciators, general := t.settings.general }
    image := t.image, saving := t.saving, causes := t.causes, stations := t.stations, circuits := t.circuits,
    ramps := t.ramps, mains := t.mains, zones := t.zones, flags := t.flags, enables := t.enables, reports := t.reports,
    lost := t.lost, silence := t.silence, draws := t.draws }
  bus : ofStation src = true → t.stations = s.stations

theorem OnlyCarried.refl (s : State) : OnlyCarried src s s := ⟨rfl, fun _ => rfl⟩
theorem OnlyCarried.trans (h : OnlyCarried src s t) (k : OnlyCarried src t u) : OnlyCarried src s u :=
  ⟨by rw [k.fields, h.fields], fun hs => (k.bus hs).trans (h.bus hs)⟩
theorem OnlyActions.carried (h : OnlyActions s t) : OnlyCarried src s t := by
  unfold OnlyActions at h
  rw [h]
  exact ⟨rfl, fun _ => rfl⟩

theorem changeMains_carried (m : Mains) (s : State) : OnlyCarried src s (changeMains m s) := by
  refine .trans ?_ (changeMains_frame m s).actions.carried
  exact ⟨rfl, fun _ => rfl⟩

theorem setSilence_carried (t : SilenceTimer) (s : State) : OnlyCarried src s (setSilence t s) := by
  refine .trans ?_ (setSilence_frame t s).actions.carried
  exact ⟨rfl, fun _ => rfl⟩

theorem writeGeneral_carried (g : GeneralSettings) (s : State) : OnlyCarried src s (writeGeneral g s) := by
  unfold writeGeneral; dsimp only
  have hs : OnlyCarried src s (s.setSettings { s.settings with general := g }) := ⟨rfl, fun _ => rfl⟩
  generalize s.setSettings { s.settings with general := g } = v at hs
  have h : OnlyCarried src s (if s.settings.general.nominal = g.nominal then v else renominate v) := by
    split
    · exact hs
    · exact hs.trans (changeMains_carried _ _)
  split
  · exact h
  · exact h.trans (setSilence_carried _ _)

theorem writeZone_carried (z : ZoneId) (zs : ZoneSettings) (s : State) : OnlyCarried src s (writeZone z zs s) := by
  unfold writeZone
  refine .trans ?_ (reevaluate_frame _ _).actions.carried
  exact ⟨rfl, fun _ => rfl⟩

/-- A request that is taken while no other is in hand (R176). -/
theorem take_between (e : Entry) {carry : State → State × Frame} (hc : ∀ v, OnlyCarried src v (carry v).1)
    (hs : s.carrying = false) : OnlyBetween src s (take e carry s) := by
  have hd : ∃ v, OnlyBetween src s v ∧ dequeue e s =
      { v with requests := v.requests.tail, carrying := true, ahead := some v.reports.length } := by
    unfold dequeue; dsimp only; split
    · exact ⟨s, .refl s, rfl⟩
    · exact ⟨_, receiveEntry_between e s, rfl⟩
  obtain ⟨v, hv, e'⟩ := hd
  have hvc : v.carrying = false := hv.carrying.trans hs
  have key : ∀ r : State × Frame, OnlyCarried src
      { v with requests := v.requests.tail, carrying := true, ahead := some v.reports.length } r.1 →
      OnlyBetween src v { r.1 with replySlot := some r.2, carrying := false, ahead := none } := by
    rintro ⟨w, f⟩ hf
    have e2 := hf.fields
    have h2 := hf.bus
    dsimp only at e2 h2 ⊢
    refine ⟨?_, fun _ _ => rfl, fun h => ⟨?_, h2 h⟩, fun _ => ?_, fun h => by rw [hvc] at h; cases h⟩
    · rw [e2, ← hvc]
    · rw [e2]
    · rw [e2]
  refine hv.trans ?_
  unfold take
  rw [e']
  exact key _ (hc _)

theorem comesIf_gives {P : State → Prop} {p : State → Bool} {f : State → Host.Outcome State Fault Refusal} {s : State}
    (h : P s) (hf : p s = true → Gives P (f s)) : Gives P (comesIf p f s) := by
  unfold comesIf; split
  · next hp => exact hf hp
  · exact Gives.next h

theorem request_between {p : State → Bool} (hp : p s = true → s.carrying = false) {k : Byte}
    {carry : List Byte → State → Answer} {bytes : List Byte} (hc : ∀ v, OnlyCarried src v (carry bytes v).state) :
    Gives (OnlyBetween src s) (comesIf p (request k carry bytes) s) :=
  comesIf_gives (.refl s) fun h => eventIf_gives (fun _ h => h.trans (serve_between _)) (.refl s) fun _ _ =>
    take_between _ hc (hp h)

theorem linkFree_eq (h : linkFree s = true) : s.carrying = false := by simpa [linkFree] using h

/-- All that a command that comes between two bindings can change. -/
theorem execBetween_frame (c : Instr) : Gives (OnlyBetween src s) (execBetween src c s) := by
  have hs : ∀ v, OnlyBetween src s v → OnlyBetween src s (serve v) := fun _ h => h.trans (serve_between _)
  have key : ∀ f : State → State, OnlyBetween src s (f s) → Gives (OnlyBetween src s) (event f s) :=
    fun f h => event_gives hs (.refl s) fun _ => h
  have keyIf : ∀ (p : State → Bool) (f : State → State), OnlyBetween src s (f s) →
      Gives (OnlyBetween src s) (eventIf p f s) := fun p f h => eventIf_gives hs (.refl s) fun _ _ => h
  have given : ∀ {p : State → Bool} {f : State → Host.Outcome State Fault Refusal},
      (p s = true → Gives (OnlyBetween src s) (f s)) → Gives (OnlyBetween src s) (comesIf p f s) :=
    comesIf_gives (.refl s)
  cases c
  case putBinding | restart | putInput | putLadder | putStation | contactSample | changeAccepted | settlingComplete
      | ladderSample | ladderDecodeChange | ladderBaseline | stateReply | holdTimerExpiry | powerOn | resetLine
      | resetInputAsserted | lossOfSupply => exact Gives.next (.refl s)
  case status | cause | save | setFlags | force | release | setAnnunciator | recallRequest | drop | levelRequest | clear
      | dropRestart | hello | queryCircuit | queryScene | queryZone | queryInputs | putScene | putCircuit | putZone
      | putAnnunciator | putGeneral | getInput | getLadder | getStation | getBinding | getScene | getCircuit | getZone
      | getAnnunciator | getGeneral =>
    refine request_between linkFree_eq fun v => ?_
    first
      | unfold carryHello | unfold carryStatus | unfold carryCause | unfold carrySave | unfold carrySetFlags
      | unfold carryForce | unfold carryRelease | unfold carrySetAnnunciator | unfold carryRecall | unfold carryDrop
      | unfold carryLevel | unfold carryClear | unfold carryDropRestart | unfold carryQueryCircuit
      | unfold carryQueryScene | unfold carryQueryZone | unfold carryQueryInputs | unfold carryPutScene
      | unfold carryPutCircuit | unfold carryPutZone | unfold carryPutAnnunciator | unfold carryPutGeneral
      | unfold carryGetInput | unfold carryGetLadder | unfold carryGetStation | unfold carryGetBinding
      | unfold carryGetScene | unfold carryGetCircuit | unfold carryGetZone | unfold carryGetAnnunciator
      | unfold carryGetGeneral
    repeat' split
    all_goals first
      | exact .refl v
      | exact ⟨rfl, fun _ => rfl⟩
      | exact (changeFlags_frame _ _).carried
      | exact (forceZone_frame _ _).actions.carried
      | exact (releaseZone_frame _ _).actions.carried
      | exact (placeScene_frame _ _ _ _ _).actions.carried
      | exact (place_frame _ _ _ _).actions.carried
      | exact writeGeneral_carried _ v
      | exact writeZone_carried _ _ v
  case queryStation p =>
    unfold execBetween
    refine given fun h => ?_
    obtain ⟨link, free⟩ := Bool.and_eq_true_iff.mp h
    refine keyIf _ _ (take_between _ (fun v => ?_) (linkFree_eq link))
    show OnlyCarried src v (carryQueryStation p v).state
    unfold carryQueryStation
    split
    · exact .refl v
    · split
      · unfold done; dsimp only; split
        · exact ⟨rfl, fun h => by simp [busFree, h] at free⟩
        · exact .refl v
      all_goals exact .refl v
  case damagedEntry =>
    unfold execBetween
    refine given fun h => ?_
    unfold execDamagedEntry
    exact keyIf _ _ (take_between _ (fun v => .refl v) (linkFree_eq h))
  case unknownKind k p =>
    unfold execBetween
    refine given fun h => ?_
    unfold execUnknownKind
    exact keyIf _ _ (take_between _ (fun v => .refl v) (linkFree_eq h))
  case tick => exact key _ (levelTick_between s)
  case fadeEnd n => exact keyIf _ _ (levelTick_between s)
  case dwellEnd n =>
    unfold execBetween execDwellEnd
    refine keyIf _ _ ?_
    exact ⟨rfl, fun _ h => h, fun _ => ⟨rfl, rfl⟩, fun _ => rfl, fun _ => ⟨rfl, rfl⟩⟩
  case zeroCrossing m => exact key _ (crossMains_between m s)
  case mainsLock m =>
    unfold execBetween execMainsLock
    exact keyIf _ _ (crossMains_between m s)
  case mainsSilenceExpiry =>
    unfold execBetween execMainsSilenceExpiry
    exact keyIf _ _ (changeMains_between _ s)
  case releaseTimerExpiry z =>
    unfold execBetween execReleaseTimerExpiry
    exact keyIf _ _ (enterZone_frame z .free s).between
  case characterReceived b e => exact key _ (takeCharacter_between b e s)
  case gapTimerExpiry =>
    unfold execBetween execGapTimerExpiry
    refine keyIf _ _ ?_
    exact ⟨rfl, fun _ h => h, fun _ => ⟨rfl, rfl⟩, fun _ => rfl, fun _ => ⟨rfl, rfl⟩⟩
  case silenceTimerExpiry =>
    unfold execBetween execSilenceTimerExpiry
    exact keyIf _ _ (setSilence_between _ s)
  case transmitFrameEnd =>
    unfold execBetween execTransmitFrameEnd
    refine keyIf _ _ ?_
    exact ⟨rfl, fun _ h => h, fun _ => ⟨rfl, rfl⟩, fun _ => rfl, fun _ => ⟨rfl, rfl⟩⟩
  case saveEnd v =>
    unfold execBetween execSaveEnd
    refine keyIf _ _ (.trans ?_ (raise_frame _ _).between)
    exact ⟨rfl, fun _ h => h, fun _ => ⟨rfl, rfl⟩, fun _ => rfl, fun _ => ⟨rfl, rfl⟩⟩
  case replyWindowOpen =>
    unfold execBetween
    refine given fun h => ?_
    unfold execReplyWindowOpen
    exact keyIf _ _ (setTurn_between h _ s)
  case flash3OverrideEnd a b =>
    unfold execBetween
    refine given fun h => ?_
    unfold execFlash3OverrideEnd
    exact keyIf _ _ (setStation_between h _ _ s)
  case identReply r =>
    unfold execBetween
    refine given fun h => ?_
    unfold execIdentReplyBy
    refine keyIf _ _ ?_
    split
    · exact identTurn_between (Bool.and_eq_true_iff.mp h).1 _ _ _ s
    · exact .refl s
  case badReply r =>
    unfold execBetween
    refine given fun h => ?_
    unfold execBadReplyBy
    refine keyIf _ _ ?_
    split
    · exact failTurn_between (Bool.and_eq_true_iff.mp h).1 _ _ s
    · exact .refl s
  case replyWindowClose =>
    unfold execBetween
    refine given fun h => ?_
    unfold execReplyWindowCloseBy
    refine keyIf _ _ ?_
    split
    · exact failTurn_between (Bool.and_eq_true_iff.mp h).1 _ _ s
    · exact .refl s
  case stationGoesMissing r =>
    unfold execBetween
    refine given fun h => ?_
    unfold execStationGoesMissingBy
    refine keyIf _ _ ?_
    split
    · exact failTurn_between (Bool.and_eq_true_iff.mp h).1 _ _ s
    · exact .refl s
  case ladderFaultEntry ch n =>
    unfold execBetween
    refine given fun h => ?_
    unfold execLadderFaultEntryBy
    exact keyIf _ _ (enterFault_between (Bool.and_eq_true_iff.mp h).1 ch)
  case ladderRecovery ch n =>
    unfold execBetween
    refine given fun h => ?_
    unfold execLadderRecovery
    exact keyIf _ _ (faultSample_between h ch n)

theorem comes_frame (c : Instr) : OnlyBetween src s (comes src s c) := by
  unfold comes; split
  · next h => exact execBetween_frame c _ h
  all_goals exact .refl s

theorem freeReports_between (s : State) : OnlyBetween src s (freeReports s) := by
  unfold freeReports; split
  · exact ⟨rfl, fun _ _ => rfl, fun _ => ⟨rfl, rfl⟩, fun _ => rfl, fun _ => ⟨rfl, rfl⟩⟩
  · exact .refl s

theorem holdReports_between (s : State) : OnlyBetween src s (holdReports s) := by
  unfold holdReports; split
  · next h =>
    exact ⟨rfl, fun hc => absurd (h.1.symm.trans hc) (by decide), fun _ => ⟨rfl, rfl⟩, fun _ => rfl, fun _ => ⟨rfl, rfl⟩⟩
  · exact .refl s

/-- What comes before a later binding reaches no tracker, no binding, and nothing of the source's own block. -/
theorem betweenBindings_frame (s : State) : OnlyBetween src s (betweenBindings src s) := by
  unfold betweenBindings
  have key : ∀ (l : List Instr) (v : State), OnlyBetween src v (l.foldl (comes src) v) := fun l v =>
    foldl_frame OnlyBetween.refl OnlyBetween.trans (fun _ c => comes_frame c) l v
  refine .trans (.trans (.trans ?_ (freeReports_between _)) (key _ _)) (holdReports_between _)
  exact ⟨rfl, fun _ h => h, fun _ => ⟨rfl, rfl⟩, fun _ => rfl, fun _ => ⟨rfl, rfl⟩⟩

end Sys2Proof.Machine
end

