-- ==== Sys2Proof/Laws/Operands.lean ====
section
/-! SUPPORT. A payload that a write's checks let through gives a record in range (R1, R10, R11, R22, R58, R82, R116,
R140, R185). -/

namespace Sys2Proof.Machine

theorem within_eq_some {low high n m : Nat} : within low high n = some m ↔ m = n ∧ low ≤ n ∧ n ≤ high := by
  unfold within; split
  · next h => simp only [Option.some.injEq]; constructor
              · rintro rfl; exact ⟨rfl, h.1, h.2⟩
              · rintro ⟨rfl, -⟩; rfl
  · next h => simp; intro _ h1; omega

theorem inputOf_ok {p : List Byte} {i : InputId} {c : InputSettings} (h : inputOf p = some (i, c)) : c.ok i = true := by
  simp only [inputOf, Option.bind_eq_bind, Option.bind_eq_some_iff, within_eq_some] at h
  obtain ⟨j, -, f, -, k, -, s, -, n, -, pa, -, r, -, e, -, a, -, ht, ⟨rfl, h1, h2⟩, h⟩ := h
  split at h
  · next hf =>
    simp only [Option.some.injEq, Prod.mk.injEq] at h
    obtain ⟨rfl, rfl⟩ := h
    simp [InputSettings.ok, h1, h2, hf]
  · cases h

theorem ladderOf_ok {p : List Byte} {ch : ChannelId} {c : LadderSettings} (h : ladderOf p = some (ch, c)) :
    c.ok = true := by
  simp only [ladderOf, Option.bind_eq_bind, Option.bind_eq_some_iff, within_eq_some] at h
  obtain ⟨j, -, b, ⟨rfl, b1, b2⟩, st, ⟨rfl, s1, s2⟩, z, -, ht, ⟨rfl, h1, h2⟩, r, -, h⟩ := h
  split at h
  · next hw =>
    simp only [Option.some.injEq, Prod.mk.injEq] at h
    obtain ⟨rfl, rfl⟩ := h
    simp only [Bool.and_eq_true] at hw
    simp [LadderSettings.ok, b1, b2, s1, s2, h1, h2, hw.1, hw.2]
  · cases h

theorem stationOf_ok {p : List Byte} {a : StationId} {c : StationSettings} (h : stationOf p = some (a, c)) :
    c.ok = true := by
  simp only [stationOf, Option.bind_eq_bind, Option.bind_eq_some_iff, within_eq_some] at h
  obtain ⟨j, -, e, -, ty, ⟨rfl, t1, t2⟩, z, -, ht, ⟨rfl, h1, h2⟩, r, -, ind, -, h⟩ := h
  simp only [Option.some.injEq, Prod.mk.injEq] at h
  obtain ⟨rfl, rfl⟩ := h
  simp [StationSettings.ok, t1, t2, h1, h2]

theorem bindingFade_ok {n : Nat} {f : Option Nat} (h : bindingFade n = some f) : fadeOk f = true := by
  unfold bindingFade at h; split at h
  · cases h; rfl
  · simp only [Option.map_eq_some_iff, within_eq_some] at h
    obtain ⟨m, ⟨rfl, -, h⟩, rfl⟩ := h
    simpa [fadeOk] using h

theorem actionOf_ok {code target level fade : Nat} {a : Action} (h : actionOf code target level fade = some a) :
    a.ok = true := by
  unfold actionOf at h
  split at h <;> (try simp only [Option.bind_eq_some_iff, Option.map_eq_some_iff, within_eq_some] at h)
  · obtain ⟨_, -, f, hf, rfl⟩ := h; exact bindingFade_ok hf
  · obtain ⟨_, -, f, hf, rfl⟩ := h; exact bindingFade_ok hf
  · obtain ⟨_, -, f, hf, rfl⟩ := h; exact bindingFade_ok hf
  · obtain ⟨_, -, l, ⟨rfl, -, hl⟩, f, hf, rfl⟩ := h
    simp [Action.ok, hl, bindingFade_ok hf]
  · obtain ⟨_, -, f, hf, rfl⟩ := h; exact bindingFade_ok hf
  · obtain ⟨_, -, rfl⟩ := h; rfl
  · obtain ⟨_, -, rfl⟩ := h; rfl
  · obtain ⟨_, -, f, hf, rfl⟩ := h; exact bindingFade_ok hf
  · obtain ⟨_, -, rfl⟩ := h; rfl
  · obtain ⟨_, -, rfl⟩ := h; rfl
  · obtain ⟨_, -, rfl⟩ := h; rfl
  · obtain ⟨_, -, rfl⟩ := h; rfl
  · obtain ⟨_, -, rfl⟩ := h; rfl
  · cases h; rfl
  · cases h

theorem bindingOf_ok {p : List Byte} {b : SlotId} {x : Binding} (h : bindingOf p = some (b, x)) : x.action.ok = true := by
  simp only [bindingOf, Option.bind_eq_bind, Option.bind_eq_some_iff] at h
  obtain ⟨b', -, src, -, t, -, cl, -, z, -, a, ha, e, -, h⟩ := h
  simp only [Option.some.injEq, Prod.mk.injEq] at h
  obtain ⟨rfl, rfl⟩ := h
  exact actionOf_ok ha

theorem nameAt_ok {p : List Byte} {i : Nat} {name : List Byte} (h : nameAt p i = some name) : nameOk name = true := by
  unfold nameAt at h; dsimp only at h; split at h
  · next hn =>
    cases h
    simp only [nameOk, Bool.and_eq_true, decide_eq_true_eq]
    refine ⟨?_, hn.2⟩
    have := List.length_take_le (byteAt p i) (p.drop (i + 1))
    omega
  · cases h

theorem entriesOf_levels {p : List Byte} {l : List SceneEntry} (h : entriesOf p = some l) :
    l.all (fun e => decide (e.level ≤ 1000)) = true ∧ l.length = p.length / 3 := by
  induction p using entriesOf.induct generalizing l with
  | case1 c lo hi rest ih =>
    simp only [entriesOf, Option.bind_eq_bind, Option.bind_eq_some_iff, within_eq_some] at h
    obtain ⟨ci, -, lv, ⟨rfl, -, hl⟩, more, hm, h⟩ := h
    cases h
    obtain ⟨h1, h2⟩ := ih hm
    simp only [List.all_cons, Bool.and_eq_true, decide_eq_true_eq, List.length_cons]
    exact ⟨⟨hl, h1⟩, by omega⟩
  | case2 p hp =>
    have : entriesOf p = some [] := by
      unfold entriesOf; split
      · exact absurd rfl (hp _ _ _ _)
      · rfl
    rw [this] at h; cases h
    refine ⟨rfl, ?_⟩
    match p, hp with
    | [], _ => rfl
    | [_], _ => simp
    | [_, _], _ => simp
    | a :: b :: c :: r, hp => exact absurd rfl (hp a b c r)

/-- A scene that passes R82's checks, its entries in the order given. -/
theorem sceneOf_ok {p : List Byte} {sc : SceneId} {c : Scene} (h : sceneOf p = some (sc, c))
    (hp : p.length = 19 + 3 * sceneCount p) :
    nameOk c.name = true ∧ c.onFade ≤ 3000 ∧ c.offFade ≤ 3000 ∧ c.entries.length ≤ 64 ∧
    c.entries.all (fun e => decide (e.level ≤ 1000)) = true := by
  simp only [sceneOf, Option.bind_eq_bind, Option.bind_eq_some_iff, within_eq_some] at h
  obtain ⟨j, -, n, hn, f1, ⟨rfl, -, h1⟩, f2, ⟨rfl, -, h2⟩, k, ⟨rfl, -, h3⟩, es, he, h⟩ := h
  simp only [Option.some.injEq, Prod.mk.injEq] at h
  obtain ⟨rfl, rfl⟩ := h
  obtain ⟨l1, l2⟩ := entriesOf_levels he
  refine ⟨nameAt_ok hn, h1, h2, ?_, l1⟩
  simp only [List.length_drop] at l2
  show es.length ≤ 64
  omega

theorem insertEntry_length (e : SceneEntry) (l : List SceneEntry) : (insertEntry e l).length = l.length + 1 := by
  induction l with
  | nil => rfl
  | cons f l ih => unfold insertEntry; split <;> simp [ih]

theorem mem_insertEntry {e f : SceneEntry} {l : List SceneEntry} : f ∈ insertEntry e l ↔ f = e ∨ f ∈ l := by
  induction l with
  | nil => simp [insertEntry]
  | cons g l ih => unfold insertEntry; split <;> simp [ih]; tauto

theorem sortEntries_length (l : List SceneEntry) : (sortEntries l).length = l.length := by
  induction l with
  | nil => rfl
  | cons e l ih => simp only [sortEntries, List.foldr_cons] at *; rw [insertEntry_length, ih]; rfl

/-- Sorting keeps the entries (R83). -/
theorem mem_sortEntries {e : SceneEntry} {l : List SceneEntry} : e ∈ sortEntries l ↔ e ∈ l := by
  induction l with
  | nil => simp [sortEntries]
  | cons f l ih => simp only [sortEntries, List.foldr_cons, mem_insertEntry, List.mem_cons] at *; rw [ih]

theorem insertEntry_sorted {e : SceneEntry} {l : List SceneEntry} (h : (l.map (·.circuit)).Pairwise (· < ·))
    (hn : e.circuit ∉ l.map (·.circuit)) : ((insertEntry e l).map (·.circuit)).Pairwise (· < ·) := by
  induction l with
  | nil => simp [insertEntry]
  | cons f l ih =>
    simp only [List.map_cons, List.pairwise_cons, List.mem_cons, not_or] at h hn
    unfold insertEntry; split
    · next hle =>
      have hlt : e.circuit < f.circuit := lt_of_le_of_ne hle hn.1
      simp only [List.map_cons, List.pairwise_cons]
      refine ⟨fun c hc => ?_, h.1, h.2⟩
      rcases List.mem_cons.mp hc with rfl | hc
      · exact hlt
      · exact lt_trans hlt (h.1 c hc)
    · next hgt =>
      simp only [List.map_cons, List.pairwise_cons]
      refine ⟨fun c hc => ?_, ih h.2 hn.2⟩
      obtain ⟨g, hg, rfl⟩ := List.mem_map.mp hc
      rcases mem_insertEntry.mp hg with rfl | hg
      · exact lt_of_not_ge hgt
      · exact h.1 _ (List.mem_map_of_mem hg)

/-- Entries without a repeated circuit are stored in ascending circuit order (R83). -/
theorem sortEntries_sorted {l : List SceneEntry} (h : repeatsCircuit l = false) :
    ((sortEntries l).map (·.circuit)).Pairwise (· < ·) := by
  have hn : (l.map (·.circuit)).Nodup := by simpa [repeatsCircuit] using h
  clear h
  induction l with
  | nil => simp [sortEntries]
  | cons e l ih =>
    simp only [List.map_cons, List.nodup_cons] at hn
    refine insertEntry_sorted (ih hn.2) fun hm => hn.1 ?_
    obtain ⟨g, hg, he⟩ := List.mem_map.mp hm
    exact he ▸ List.mem_map_of_mem (mem_sortEntries.mp hg)

/-- What an accepted PUT_SCENE stores is in range (R82, R83). -/
theorem storedScene_ok {p : List Byte} {sc : SceneId} {c : Scene} (h : sceneOf p = some (sc, c))
    (hp : p.length = 19 + 3 * sceneCount p) (hr : repeatsCircuit c.entries = false) :
    Scene.ok { c with entries := sortEntries c.entries } = true := by
  obtain ⟨h1, h2, h3, h4, h5⟩ := sceneOf_ok h hp
  simp only [Scene.ok, entriesOk, Bool.and_eq_true, decide_eq_true_eq]
  refine ⟨⟨⟨h1, h2⟩, h3⟩, ⟨by rw [sortEntries_length]; exact h4, ?_⟩, sortEntries_sorted hr⟩
  rw [List.all_eq_true] at h5 ⊢
  exact fun e he => h5 e (mem_sortEntries.mp he)

theorem circuitOf_ok {p : List Byte} {n : CircuitId} {c : CircuitSettings} (h : circuitOf p = some (n, c)) :
    c.ok = true := by
  simp only [circuitOf, Option.bind_eq_bind, Option.bind_eq_some_iff, within_eq_some] at h
  obtain ⟨j, -, l, -, a, ⟨rfl, -, h1⟩, b, ⟨rfl, -, h2⟩, r, ⟨rfl, -, h3⟩, f, ⟨rfl, -, h4⟩, on, ⟨rfl, -, h5⟩,
    off, ⟨rfl, -, h6⟩, d, ⟨rfl, -, h7⟩, al, -, h⟩ := h
  simp only [Option.some.injEq, Prod.mk.injEq] at h
  obtain ⟨rfl, rfl⟩ := h
  simp [CircuitSettings.ok, h1, h2, h3, h4, h5, h6, h7]

theorem zoneOf_ok {p : List Byte} {z : ZoneId} {c : ZoneSettings} (h : zoneOf p = some (z, c)) : c.ok = true := by
  simp only [zoneOf, Option.bind_eq_bind, Option.bind_eq_some_iff, within_eq_some] at h
  obtain ⟨j, -, m, -, mo, -, d, hd, r, ⟨rfl, h1, h2⟩, n, hn, h⟩ := h
  simp only [Option.some.injEq, Prod.mk.injEq] at h
  obtain ⟨rfl, rfl⟩ := h
  unfold delayOf at hd; split at hd
  · next hm => cases hd; simp [ZoneSettings.ok, h1, h2, nameAt_ok hn]; simpa using hm
  · cases hd

theorem generalOf_ok {p : List Byte} {g : GeneralSettings} (h : generalOf p = some g) : g.silenceTimeout ≤ 255 := by
  simp only [generalOf, Option.bind_eq_bind, Option.bind_eq_some_iff] at h
  obtain ⟨n, -, m, -, h⟩ := h
  cases h
  have := (p.getD 1 0).isLt
  simp only [byteAt]; omega

end Sys2Proof.Machine
end

