-- ==== Sys2Proof/Laws/Between.lean ====
section
/-! SUPPORT. A property that the pieces of a command keep which may come between two bindings is kept by each of these commands,
and by all that comes there (R64, R85, R107, R148). -/

namespace Sys2Proof.Machine

/-- Re-evaluating the zones that are one zone is re-evaluating it. -/
theorem reevaluateWhere_single (h : ZoneId) (s : State) : reevaluateWhere (fun z => decide (z = h)) s = reevaluate h s := by
  have key : ∀ (l : List ZoneId) (s : State), l.Nodup →
      l.foldl (fun s z => if decide (z = h) then reevaluate z s else s) s = if h ∈ l then reevaluate h s else s := by
    intro l
    induction l with
    | nil => intro s _; simp
    | cons a l ih =>
      intro s hn
      obtain ⟨ha, hl⟩ := List.nodup_cons.mp hn
      rw [List.foldl_cons, ih _ hl]
      by_cases e : a = h
      · subst e; simp [ha]
      · simp [e, Ne.symm e]
  unfold reevaluateWhere
  rw [key _ _ (List.nodup_finRange 16), if_pos (List.mem_finRange h)]

/-! ## The pieces -/

/-- A property that the transmitter and the receipt and queueing of a frame keep. -/
structure KeptByLink (P : State → Prop) : Prop where
  serve : ∀ s, P s → P (serve s)
  receive : ∀ e s, P s → P (receiveEntry e s)
  unqueue : ∀ s, P s → P { s with requests := s.requests.tail, carrying := true, ahead := some s.reports.length }
  reply : ∀ f s, P s → P { s with replySlot := some f, carrying := false, ahead := none }

/-- A property that the blocks keep outside the gestures: what a command is made of that may come between two bindings of a
dispatch. -/
structure KeptByComings (P : State → Prop) : Prop extends KeptByLink P where
  drawn : ∀ s, P s → P { s with draws := s.draws + 1 }
  ahead : ∀ a s, P s → P { s with ahead := a }
  counted : ∀ s, P s → P { s with lost := 0 }
  causes : ∀ c s, P s → P { s with causes := c }
  saving : ∀ s, P s → P (startSave s)
  saved : ∀ v s, P s → s.saving = true → P (endSave v s)
  enables : ∀ v s, P s → P { s with enables := v }
  flags : ∀ v s, P s → P (changeFlags v s)
  force : ∀ z s, P s → P (forceZone z s)
  released : ∀ z s, P s → P (releaseZone z s)
  recalled : ∀ sc cls fade s, P s → cls.ofHost = true → P (placeScene sc cls none fade s)
  remote : ∀ c cls level fade s, P s → cls.ofHost = true → P (place c (remoteClaim cls level) fade s)
  withdrawn : ∀ c k fade s, P s → P (withdraw c k fade s)
  dropped : ∀ k fade s, P s → P (withdrawEverywhere k fade s)
  writeScene : ∀ sc c s, P s → Scene.ok { c with entries := sortEntries c.entries } = true →
    hasRoom sc c.entries.length s = true → P (writeScene sc c s)
  writeCircuit : ∀ c cs s, P s → cs.ok = true → P (writeCircuit c cs s)
  writeZone : ∀ z zs s, P s → zs.ok = true → P (writeZone z zs s)
  writeAnnunciator : ∀ a f s, P s → P (writeAnnunciator a f s)
  writeGeneral : ∀ g s, P s → g.silenceTimeout ≤ 255 → P (writeGeneral g s)
  /-- A channel's record changes, its state stays; a new stable decode is the number of a window. -/
  ladder : ∀ ch v s, P s → v.state = (s.ladders.get ch).state → v.decode = (s.ladders.get ch).decode ∨ v.decode ≤ 6 →
    P (s.setLadder ch v)
  /-- A sampled channel changes state with its decode at none, and it is made known (R18). -/
  ladderKnown : ∀ ch v s, P s → v.state ≠ .inactive → (s.ladders.get ch).state ≠ .inactive → v.decode = 0 →
    P (ladderMadeKnown ch v.state (s.setLadder ch v))
  /-- A station's record changes; its state stays, and whether it counts toward STATION_MISSING. -/
  station : ∀ a v s, P s → v.state = (s.stations.get a).state → v.uncounted = (s.stations.get a).uncounted →
    P (s.setStation a v)
  /-- A station changes state, and the zone unit is told (R39, R40). -/
  stationKnown : ∀ a v s, P s → P (reevaluate (s.settings.stations.get a).homeZone (enterStation a v s))
  turn : ∀ t s, P s → P { s with turn := t }
  mains : ∀ m s, P s → P (changeMains m s)
  crossings : ∀ s, P s → mainsLocked s = true → P (applyCrossings s)
  silence : ∀ t s, P s → P (setSilence t s)
  /-- A zone's release timer expires (R147). -/
  freed : ∀ z s, P s → (s.zones.get z).state = .releasing → P (enterZone z .free s)
  /-- A circuit's dwell ends (R160). -/
  dwell : ∀ c s, P s → (s.circuits.get c).relay.dwellRunning = true → P (s.setCircuit c { s.circuits.get c with
    relay := (s.circuits.get c).relay.endDwell (s.settings.circuits.get c) (mainsLocked s) })
  tick : ∀ s, P s → P (levelTick s)
  framer : ∀ f s, P s → P { s with framer := f }
  sent : ∀ s, P s → P { s with sending := none }

variable {P : State → Prop}

theorem foldl_kept {α : Type} {f : State → α → State} (step : ∀ s a, P s → P (f s a)) (l : List α) (s : State)
    (h : P s) : P (l.foldl f s) := by
  induction l generalizing s with
  | nil => exact h
  | cons a l ih => exact ih _ (step s a h)

theorem reevaluateWhere_kept (hr : ∀ z s, P s → P (reevaluate z s)) (p : ZoneId → Bool) (s : State) (h : P s) :
    P (reevaluateWhere p s) := by
  unfold reevaluateWhere
  refine foldl_kept (fun s z h => ?_) _ _ h
  split
  · exact hr _ _ h
  · exact h

theorem dequeue_kept (L : KeptByLink P) (e : Entry) (s : State) (h : P s) : P (dequeue e s) := by
  unfold dequeue; dsimp only; split
  · exact L.unqueue _ h
  · exact L.unqueue _ (L.receive _ _ h)

theorem take_gives {p : State → Bool} {e : Entry} {carry : State → State × Frame} {s : State} (L : KeptByLink P) (h : P s)
    (hc : ∀ s, P s → P (carry s).1) : Gives P (eventIf p (take e carry) s) :=
  eventIf_gives L.serve h fun _ _ => L.reply _ _ (hc _ (dequeue_kept L _ _ h))

theorem request_gives {k : Byte} {carry : List Byte → State → Answer} {p : List Byte} {s : State} (L : KeptByLink P)
    (h : P s) (hc : ∀ s, P s → P (carry p s).state) : Gives P (request k carry p s) := take_gives L h hc

/-! ## What the requests carry out -/

theorem carryRecall_kept (K : KeptByComings P) (p : List Byte) (s : State) (h : P s) : P (carryRecall p s).state := by
  unfold carryRecall
  split
  · exact h
  · split
    · split
      · next hc => exact K.recalled _ _ _ _ h hc
      · exact h
    all_goals exact h

theorem carryDrop_kept (K : KeptByComings P) (p : List Byte) (s : State) (h : P s) : P (carryDrop p s).state := by
  unfold carryDrop
  split
  · exact h
  · split
    · split
      · exact K.dropped _ _ _ h
      · exact h
    all_goals exact h

theorem carryLevel_kept (K : KeptByComings P) (p : List Byte) (s : State) (h : P s) : P (carryLevel p s).state := by
  unfold carryLevel
  split
  · exact h
  · split
    · split
      · next hc => exact K.remote _ _ _ _ _ h hc
      · exact h
    all_goals exact h

theorem carryClear_kept (K : KeptByComings P) (p : List Byte) (s : State) (h : P s) : P (carryClear p s).state := by
  unfold carryClear
  split
  · exact h
  · split
    · split
      · exact K.withdrawn _ _ _ _ h
      · exact h
    all_goals exact h

theorem carryPutScene_kept (K : KeptByComings P) (p : List Byte) (s : State) (h : P s) : P (carryPutScene p s).state := by
  unfold carryPutScene
  split
  · exact h
  · next hl =>
    split
    · exact h
    · split
      · exact h
      · next hp =>
        split
        · exact h
        · next hr =>
          split
          · next hm => exact K.writeScene _ _ _ h (storedScene_ok hp (by omega) (by simpa using hr)) hm
          · exact h

theorem carryQueryStation_kept (K : KeptByComings P) (p : List Byte) (s : State) (h : P s) :
    P (carryQueryStation p s).state := by
  unfold carryQueryStation
  split
  · exact h
  · split
    · show P (if _ then _ else _)
      split
      · exact K.station _ _ _ h rfl rfl
      · exact h
    all_goals exact h

/-! ## The bus and the channels -/

theorem faultSample_kept (K : KeptByComings P) (ch : ChannelId) (reading : Nat) (s : State) (h : P s)
    (hf : (s.ladders.get ch).state = .fault) : P (faultSample ch reading s) := by
  unfold faultSample; split
  · exact K.ladderKnown ch { LadderState.off with state := .normal } _ h (by simp) (by rw [hf]; simp) rfl
  · exact K.ladder _ _ _ h rfl (.inl rfl)

/-- A release, as a turn's end and a fault hand it on, that keeps the property, and the records of the stations and the
channels. -/
structure KeptByRelease (P : State → Prop) (release : Source → State → State) : Prop where
  keeps : ∀ src s, P s → P (release src s)
  stations : ∀ a b s, (release (.station a b) s).settings.stations = s.settings.stations
  ladders : ∀ ch b s, (release (.ladder ch b) s).ladders = s.ladders

theorem KeptByRelease.nothing : KeptByRelease P releaseNothing := ⟨fun _ _ h => h, fun _ _ _ => rfl, fun _ _ _ => rfl⟩

theorem enterFaultBy_kept (K : KeptByComings P) {release : Source → State → State} (hr : KeptByRelease P release)
    (ch : ChannelId) (s : State) (h : P s) (hn : (s.ladders.get ch).state ≠ .inactive) :
    P (enterFaultBy release ch s) := by
  unfold enterFaultBy; dsimp only
  have hf : P (forButton ch (s.ladders.get ch).decode release s) ∧
      (forButton ch (s.ladders.get ch).decode release s).ladders = s.ladders := by
    unfold forButton ladderSource; split
    · next src e =>
      split at e
      · cases e; exact ⟨hr.keeps _ _ h, hr.ladders _ _ _⟩
      · cases e
    · exact ⟨h, rfl⟩
  refine K.ladderKnown ch { LadderState.off with state := .fault } _ hf.1 (by simp) ?_ rfl
  rwa [hf.2]

theorem endTurn_kept (K : KeptByComings P) (t : Turn) (s : State) (h : P s) : P (endTurn t s) := K.turn _ _ h

theorem releaseStationBy_kept {release : Source → State → State} (hr : KeptByRelease P release) (a : StationId)
    (s : State) (h : P s) : P (releaseStationBy release a s) ∧
      (releaseStationBy release a s).settings.stations = s.settings.stations :=
  ⟨foldl_kept (fun _ _ h => hr.keeps _ _ h) _ _ h,
    foldl_kept (P := fun u => u.settings.stations = s.settings.stations) (fun _ _ h => (hr.stations _ _ _).trans h) _ s rfl⟩

theorem deferredTransitionBy_kept (K : KeptByComings P) {release : Source → State → State} (hr : KeptByRelease P release)
    (a : StationId) (s : State) (h : P s) : P (deferredTransitionBy release a s) := by
  have key : ∀ s, P s → P (reevaluateWhere
      (fun z => decide (z = (s.settings.stations.get a).homeZone))
      (enterStation a { s.stations.get a with
        keyMap := 0, baselinePending := false, misses := 0, overrides := Table.replicate 8 none, uncounted := false,
        state := writtenState (s.settings.stations.get a) } s)) := fun s h => by
    rw [reevaluateWhere_single]; exact K.stationKnown _ _ _ h
  unfold deferredTransitionBy restartStationBy; dsimp only [id]
  split
  · obtain ⟨h1, hs⟩ := releaseStationBy_kept hr a s h
    have := key _ h1
    rw [hs] at this ⊢
    exact this
  · exact key _ h

theorem goMissingBy_kept (K : KeptByComings P) {release : Source → State → State} (hr : KeptByRelease P release)
    (a : StationId) (s : State) (h : P s) : P (goMissingBy release a s) := by
  unfold goMissingBy; dsimp only
  have hs : ∀ v, (enterStation a v (releaseStationBy release a s)).settings = (releaseStationBy release a s).settings := by
    intro v; unfold enterStation; split
    · rfl
    · rw [raise_settings]; rfl
  rw [hs]
  exact K.stationKnown _ _ _ (releaseStationBy_kept hr a s h).1

theorem countFailure_kept (K : KeptByComings P) (a : StationId) (bad : Bool) (s : State) (h : P s) :
    P (countFailure a bad s) := by
  unfold countFailure; dsimp only
  exact K.station _ _ _ h (by split <;> rfl) (by split <;> rfl)

theorem failTurnBy_kept (K : KeptByComings P) {release : Source → State → State} (hr : KeptByRelease P release) (t : Turn)
    (bad : Bool) (s : State) (h : P s) : P (failTurnBy release t bad s) := by
  unfold failTurnBy; dsimp only
  refine endTurn_kept K _ _ ?_
  have hc := countFailure_kept K t.address bad s h
  split
  · exact deferredTransitionBy_kept K hr _ _ hc
  · split
    · exact hc
    · split
      · exact goMissingBy_kept K hr _ _ hc
      · exact K.station _ _ _ hc rfl rfl

theorem identTurnBy_kept (K : KeptByComings P) {release : Source → State → State} (hr : KeptByRelease P release) (t : Turn)
    (r : Byte) (n : Nat) (s : State) (h : P s) : P (identTurnBy release t r n s) := by
  unfold identTurnBy; dsimp only
  refine endTurn_kept K _ _ ?_
  split
  · exact deferredTransitionBy_kept K hr _ _ h
  · exact K.stationKnown _ _ _ h

/-- The ends of a turn, and a channel's fault, with any such release. -/
theorem execIdentReplyBy_gives (K : KeptByComings P) {release : Source → State → State} (hr : KeptByRelease P release)
    (r : BusReply) (s : State) (h : P s) : Gives P (execIdentReplyBy release r s) := by
  unfold execIdentReplyBy
  refine eventIf_gives K.serve h fun _ _ => ?_
  split
  · exact identTurnBy_kept K hr _ _ _ _ h
  · exact h

theorem execBadReplyBy_gives (K : KeptByComings P) {release : Source → State → State} (hr : KeptByRelease P release)
    (r : BusReply) (s : State) (h : P s) : Gives P (execBadReplyBy release r s) := by
  unfold execBadReplyBy
  refine eventIf_gives K.serve h fun _ _ => ?_
  split
  · exact failTurnBy_kept K hr _ _ _ h
  · exact h

theorem execReplyWindowCloseBy_gives (K : KeptByComings P) {release : Source → State → State}
    (hr : KeptByRelease P release) (s : State) (h : P s) : Gives P (execReplyWindowCloseBy release s) := by
  unfold execReplyWindowCloseBy
  refine eventIf_gives K.serve h fun _ _ => ?_
  split
  · exact failTurnBy_kept K hr _ _ _ h
  · exact h

theorem execStationGoesMissingBy_gives (K : KeptByComings P) {release : Source → State → State}
    (hr : KeptByRelease P release) (r : Option BusReply) (s : State) (h : P s) :
    Gives P (execStationGoesMissingBy release r s) := by
  unfold execStationGoesMissingBy
  refine eventIf_gives K.serve h fun _ _ => ?_
  split
  · exact failTurnBy_kept K hr _ _ _ h
  · exact h

theorem execLadderFaultEntryBy_gives (K : KeptByComings P) {release : Source → State → State}
    (hr : KeptByRelease P release) (ch : ChannelId) (reading : Nat) (s : State) (h : P s) :
    Gives P (execLadderFaultEntryBy release ch reading s) := by
  unfold execLadderFaultEntryBy
  refine eventIf_gives K.serve h fun _ he => enterFaultBy_kept K hr _ _ h fun hi => ?_
  simp [entersFaultAt, hi] at he

/-! ## The mains, the control link -/

theorem takeCrossing_kept (K : KeptByComings P) (moment : Nat) (s : State) (h : P s) : P (takeCrossing moment s) := by
  unfold takeCrossing; dsimp only
  refine K.mains _ _ ?_
  split
  · next hl => exact K.crossings _ h hl
  · exact h

theorem crossMains_kept (K : KeptByComings P) (moment : Nat) (s : State) (h : P s) : P (crossMains moment s) := by
  unfold crossMains
  refine takeCrossing_kept K _ _ ?_
  split
  · exact K.mains _ _ h
  · exact h

theorem takeCharacter_kept (K : KeptByComings P) (c : Byte) (e : Bool) (s : State) (h : P s) :
    P (takeCharacter c e s) := by
  unfold takeCharacter; split
  · exact K.framer _ _ h
  · unfold goodCharacter; split
    · split
      · exact K.framer _ _ h
      · exact h
    · split <;> exact K.framer _ _ h
    · split
      · exact K.framer _ _ h
      · exact K.receive _ _ (K.framer _ _ h)

/-! ## The commands -/

/-- The commands that come between two bindings just as they are. -/
def comesAsItself : Instr → Bool
  | .hello _ | .status _ | .cause _ | .save _ | .setFlags _ | .force _ | .release _ | .setAnnunciator _ | .recallRequest _
  | .drop _ | .levelRequest _ | .clear _ | .dropRestart _ | .queryCircuit _ | .queryScene _ | .queryZone _
  | .queryStation _ | .queryInputs _ | .putScene _ | .putCircuit _ | .putZone _ | .putAnnunciator _ | .putGeneral _
  | .getInput _ | .getLadder _ | .getStation _ | .getBinding _ | .getScene _ | .getCircuit _ | .getZone _
  | .getAnnunciator _ | .getGeneral _ | .damagedEntry | .unknownKind _ _ | .dwellEnd _ | .zeroCrossing _ | .mainsLock _
  | .mainsSilenceExpiry | .releaseTimerExpiry _ | .characterReceived _ _ | .gapTimerExpiry | .silenceTimerExpiry
  | .transmitFrameEnd | .saveEnd _ | .replyWindowOpen | .flash3OverrideEnd _ _ | .ladderRecovery _ _ => true
  | _ => false

/-- A property that the pieces keep is kept by each command that comes as it is. -/
theorem exec_comesAsItself (K : KeptByComings P) (c : Instr) (hc : comesAsItself c = true) (s : State) (h : P s) :
    Gives P (exec c s) := by
  cases c with
  | hello p =>
    refine request_gives K.toKeptByLink h fun s h => ?_
    unfold carryHello; split <;> exact h
  | status p =>
    refine request_gives K.toKeptByLink h fun s h => ?_
    unfold carryStatus; split
    · exact h
    · exact K.counted _ h
  | cause p =>
    refine request_gives K.toKeptByLink h fun s h => ?_
    unfold carryCause; split
    · exact h
    · exact K.causes _ _ h
  | save p =>
    refine request_gives K.toKeptByLink h fun s h => ?_
    unfold carrySave; split
    · exact h
    · split
      · exact h
      · exact K.saving _ h
  | setFlags p =>
    refine request_gives K.toKeptByLink h fun s h => ?_
    unfold carrySetFlags; split
    · exact h
    · exact K.flags _ _ h
  | force p =>
    refine request_gives K.toKeptByLink h fun s h => ?_
    unfold carryForce; split
    · exact h
    · split
      · exact h
      · exact K.force _ _ h
  | release p =>
    refine request_gives K.toKeptByLink h fun s h => ?_
    unfold carryRelease; split
    · exact h
    · split
      · exact h
      · exact K.released _ _ h
  | setAnnunciator p =>
    refine request_gives K.toKeptByLink h fun s h => ?_
    unfold carrySetAnnunciator; split
    · exact h
    · exact K.enables _ _ h
  | recallRequest p => exact request_gives K.toKeptByLink h fun s h => carryRecall_kept K p s h
  | drop p => exact request_gives K.toKeptByLink h fun s h => carryDrop_kept K p s h
  | levelRequest p => exact request_gives K.toKeptByLink h fun s h => carryLevel_kept K p s h
  | clear p => exact request_gives K.toKeptByLink h fun s h => carryClear_kept K p s h
  | dropRestart p =>
    refine request_gives K.toKeptByLink h fun s h => ?_
    unfold carryDropRestart; split
    · exact h
    · exact K.dropped _ _ _ h
  | queryCircuit p =>
    refine request_gives K.toKeptByLink h fun s h => ?_
    unfold carryQueryCircuit; split
    · exact h
    · split <;> exact h
  | queryScene p =>
    refine request_gives K.toKeptByLink h fun s h => ?_
    unfold carryQueryScene; split
    · exact h
    · split <;> exact h
  | queryZone p =>
    refine request_gives K.toKeptByLink h fun s h => ?_
    unfold carryQueryZone; split
    · exact h
    · split <;> exact h
  | queryStation p => exact request_gives K.toKeptByLink h fun s h => carryQueryStation_kept K p s h
  | queryInputs p =>
    refine request_gives K.toKeptByLink h fun s h => ?_
    unfold carryQueryInputs; split <;> exact h
  | putScene p => exact request_gives K.toKeptByLink h fun s h => carryPutScene_kept K p s h
  | putCircuit p =>
    refine request_gives K.toKeptByLink h fun s h => ?_
    unfold carryPutCircuit; split
    · exact h
    · split
      · exact h
      · split
        · exact h
        · next hp => exact K.writeCircuit _ _ _ h (circuitOf_ok hp)
  | putZone p =>
    refine request_gives K.toKeptByLink h fun s h => ?_
    unfold carryPutZone; split
    · exact h
    · split
      · exact h
      · split
        · exact h
        · next hp => exact K.writeZone _ _ _ h (zoneOf_ok hp)
  | putAnnunciator p =>
    refine request_gives K.toKeptByLink h fun s h => ?_
    unfold carryPutAnnunciator; split
    · exact h
    · split
      · exact h
      · split
        · exact h
        · exact K.writeAnnunciator _ _ _ h
  | putGeneral p =>
    refine request_gives K.toKeptByLink h fun s h => ?_
    unfold carryPutGeneral; split
    · exact h
    · split
      · exact h
      · split
        · exact h
        · next hp => exact K.writeGeneral _ _ h (generalOf_ok hp)
  | getInput p =>
    refine request_gives K.toKeptByLink h fun s h => ?_
    unfold carryGetInput; split
    · exact h
    · split <;> exact h
  | getLadder p =>
    refine request_gives K.toKeptByLink h fun s h => ?_
    unfold carryGetLadder; split
    · exact h
    · split <;> exact h
  | getStation p =>
    refine request_gives K.toKeptByLink h fun s h => ?_
    unfold carryGetStation; split
    · exact h
    · split <;> exact h
  | getBinding p =>
    refine request_gives K.toKeptByLink h fun s h => ?_
    unfold carryGetBinding; split
    · exact h
    · split <;> exact h
  | getScene p =>
    refine request_gives K.toKeptByLink h fun s h => ?_
    unfold carryGetScene; split
    · exact h
    · split
      · exact h
      · exact K.drawn _ h
  | getCircuit p =>
    refine request_gives K.toKeptByLink h fun s h => ?_
    unfold carryGetCircuit; split
    · exact h
    · split <;> exact h
  | getZone p =>
    refine request_gives K.toKeptByLink h fun s h => ?_
    unfold carryGetZone; split
    · exact h
    · split
      · exact h
      · exact K.drawn _ h
  | getAnnunciator p =>
    refine request_gives K.toKeptByLink h fun s h => ?_
    unfold carryGetAnnunciator; split
    · exact h
    · split <;> exact h
  | getGeneral p =>
    refine request_gives K.toKeptByLink h fun s h => ?_
    unfold carryGetGeneral; split <;> exact h
  | replyWindowOpen =>
    show Gives P (execReplyWindowOpen s)
    unfold execReplyWindowOpen; exact eventIf_gives K.serve h fun _ _ => K.turn _ _ h
  | flash3OverrideEnd a b =>
    show Gives P (execFlash3OverrideEnd a b s)
    unfold execFlash3OverrideEnd; exact eventIf_gives K.serve h fun _ _ => K.station _ _ _ h rfl rfl
  | ladderRecovery ch r =>
    show Gives P (execLadderRecovery ch r s)
    unfold execLadderRecovery; refine eventIf_gives K.serve h fun _ hr => faultSample_kept K _ _ _ h ?_
    simp only [recoversAt, Bool.and_eq_true, decide_eq_true_eq] at hr
    exact hr.1
  | dwellEnd c =>
    show Gives P (execDwellEnd c s)
    unfold execDwellEnd
    exact eventIf_gives K.serve h fun _ hd => K.dwell _ _ h hd
  | zeroCrossing m =>
    show Gives P (execZeroCrossing m s)
    unfold execZeroCrossing; exact event_gives K.serve h fun _ => crossMains_kept K _ _ h
  | mainsLock m =>
    show Gives P (execMainsLock m s)
    unfold execMainsLock; exact eventIf_gives K.serve h fun _ _ => crossMains_kept K _ _ h
  | mainsSilenceExpiry =>
    show Gives P (execMainsSilenceExpiry s)
    unfold execMainsSilenceExpiry; exact eventIf_gives K.serve h fun _ _ => K.mains _ _ h
  | releaseTimerExpiry z =>
    show Gives P (execReleaseTimerExpiry z s)
    unfold execReleaseTimerExpiry
    refine eventIf_gives K.serve h fun _ hz => K.freed _ _ h ?_
    simp only [Bool.and_eq_true, decide_eq_true_eq] at hz
    exact hz.1
  | characterReceived c e =>
    show Gives P (execCharacterReceived c e s)
    unfold execCharacterReceived; exact event_gives K.serve h fun _ => takeCharacter_kept K _ _ _ h
  | gapTimerExpiry =>
    show Gives P (execGapTimerExpiry s)
    unfold execGapTimerExpiry; exact eventIf_gives K.serve h fun _ _ => K.framer _ _ h
  | silenceTimerExpiry =>
    show Gives P (execSilenceTimerExpiry s)
    unfold execSilenceTimerExpiry; exact eventIf_gives K.serve h fun _ _ => K.silence _ _ h
  | transmitFrameEnd =>
    show Gives P (execTransmitFrameEnd s)
    unfold execTransmitFrameEnd; exact eventIf_gives K.serve h fun _ _ => K.sent _ h
  | damagedEntry =>
    show Gives P (execDamagedEntry s)
    unfold execDamagedEntry; exact take_gives K.toKeptByLink h fun _ h => h
  | unknownKind k p =>
    show Gives P (execUnknownKind k p s)
    unfold execUnknownKind; exact take_gives K.toKeptByLink h fun _ h => h
  | saveEnd v =>
    show Gives P (execSaveEnd v s)
    unfold execSaveEnd; exact eventIf_gives K.serve h fun _ hs => K.saved _ _ h hs
  | _ => cases hc

/-- A property that the pieces keep is kept by every command where it comes between two bindings. -/
theorem execBetween_gives (K : KeptByComings P) (src : Source) (c : Instr) (s : State) (h : P s) :
    Gives P (execBetween src c s) := by
  have free := fun hc => exec_comesAsItself K c hc s h
  have given : ∀ {p : State → Bool} {f : State → Host.Outcome State Fault Refusal}, Gives P (f s) →
      Gives P (comesIf p f s) := fun hf => comesIf_gives h fun _ => hf
  cases c
  case putBinding | restart | putInput | putLadder | putStation | contactSample | changeAccepted | settlingComplete
      | ladderSample | ladderDecodeChange | ladderBaseline | stateReply | holdTimerExpiry | powerOn | resetLine
      | resetInputAsserted | lossOfSupply => exact Gives.next h
  case tick => exact event_gives K.serve h fun _ => K.tick _ h
  case fadeEnd n => exact eventIf_gives K.serve h fun _ _ => K.tick _ h
  case identReply r => unfold execBetween; exact given (execIdentReplyBy_gives K .nothing r s h)
  case badReply r => unfold execBetween; exact given (execBadReplyBy_gives K .nothing r s h)
  case replyWindowClose => unfold execBetween; exact given (execReplyWindowCloseBy_gives K .nothing s h)
  case stationGoesMissing r => unfold execBetween; exact given (execStationGoesMissingBy_gives K .nothing r s h)
  case ladderFaultEntry ch n => unfold execBetween; exact given (execLadderFaultEntryBy_gives K .nothing ch n s h)
  case dwellEnd | zeroCrossing | mainsLock | mainsSilenceExpiry | releaseTimerExpiry | characterReceived | gapTimerExpiry
      | silenceTimerExpiry | transmitFrameEnd | saveEnd => exact free rfl
  case queryStation p => unfold execBetween; exact given (free rfl)
  all_goals exact given (free rfl)

/-- What comes before a later binding keeps what its pieces keep. -/
theorem betweenBindings_kept (K : KeptByComings P) (src : Source) (s : State) (h : P s) : P (betweenBindings src s) := by
  have hold : ∀ v, P v → P (holdReports v) := fun v h => by
    unfold holdReports; split
    · exact K.ahead _ _ h
    · exact h
  have free : ∀ v, P v → P (freeReports v) := fun v h => by
    unfold freeReports; split
    · exact K.ahead _ _ h
    · exact h
  refine hold _ (foldl_kept (fun s c h => ?_) _ _ (free _ (K.drawn _ h)))
  unfold comes; split
  · next e => exact execBetween_gives K src c s h _ e
  all_goals exact h

end Sys2Proof.Machine
end

