-- ==== Sys2Proof/Laws/Claims.lean ====
section
/-! SUPPORT. What a placement and a withdrawal do to one claim list (R97 to R103). -/

namespace Sys2Proof.Machine

theorem insertClaim_length (n : Claim) (l : List Claim) : (insertClaim n l).length = l.length + 1 := by
  induction l with
  | nil => rfl
  | cons c l ih => unfold insertClaim; split <;> simp [ih]

theorem mem_insertClaim {n c : Claim} {l : List Claim} : c ∈ insertClaim n l ↔ c = n ∨ c ∈ l := by
  induction l with
  | nil => simp [insertClaim]
  | cons d l ih => unfold insertClaim; split <;> simp [ih]; tauto

/-- The list with a claim inserted is the list's higher classes, the claim, then the rest (R97). -/
theorem insertClaim_split (n : Claim) (l : List Claim) :
    insertClaim n l = l.takeWhile (fun c => decide (n.cls.rank < c.cls.rank)) ++
      n :: l.dropWhile (fun c => decide (n.cls.rank < c.cls.rank)) := by
  induction l with
  | nil => rfl
  | cons c l ih => unfold insertClaim; split <;> simp_all

theorem holdsKey_iff {k : Key} {l : List Claim} : holdsKey k l = true ↔ k ∈ l.map Claim.key := by
  simp [holdsKey, List.any_eq_true]

theorem mem_dropKey {k : Key} {c : Claim} {l : List Claim} : c ∈ dropKey k l ↔ c ∈ l ∧ c.key ≠ k := by
  simp [dropKey]

theorem dropKey_length_lt {k : Key} {l : List Claim} (h : holdsKey k l = true) : (dropKey k l).length < l.length := by
  unfold holdsKey at h
  rw [List.any_eq_true] at h
  obtain ⟨c, hc, hk⟩ := h
  refine lt_of_le_of_ne (List.length_filter_le _ _) fun he => ?_
  have := List.length_filter_eq_length_iff.mp he c hc
  simp_all

theorem ClaimListOk.sublist {l m : List Claim} (h : ClaimListOk l) (hs : m.Sublist l) : ClaimListOk m :=
  ⟨hs.length_le.trans h.short, (hs.map _).nodup h.keys, h.ordered.sublist hs⟩

/-- Inserting a claim whose key a list of at most three lacks keeps the list's order (R97, R99). -/
theorem ClaimListOk.insert {n : Claim} {l : List Claim} (h : ClaimListOk l) (hl : l.length ≤ 3)
    (hk : n.key ∉ l.map Claim.key) : ClaimListOk (insertClaim n l) := by
  refine ⟨by rw [insertClaim_length]; omega, ?_, ?_⟩
  · have : List.Perm ((insertClaim n l).map Claim.key) (n.key :: l.map Claim.key) := by
      rw [insertClaim_split, List.map_append, List.map_cons]
      refine (List.perm_middle).trans (List.Perm.cons _ ?_)
      rw [← List.map_append, List.takeWhile_append_dropWhile]
    exact this.nodup_iff.mpr (List.nodup_cons.mpr ⟨hk, h.keys⟩)
  · have ho := h.ordered
    clear h hl hk
    induction l with
    | nil => simp [insertClaim]
    | cons c l ih =>
      rw [List.pairwise_cons] at ho
      unfold insertClaim; split
      · next hlt =>
        rw [List.pairwise_cons]
        refine ⟨fun a ha => ?_, ih ho.2⟩
        rcases mem_insertClaim.mp ha with rfl | ha
        · omega
        · exact ho.1 a ha
      · next hge =>
        rw [List.pairwise_cons, List.pairwise_cons]
        refine ⟨fun a ha => ?_, ho⟩
        rcases List.mem_cons.mp ha with rfl | ha
        · omega
        · have := ho.1 a ha; omega

/-- All that a placement can do to a list in order (R98 to R100): replace the claim of its key, insert below four claims,
evict the last of four, or be refused. -/
theorem placeClaim_cases {n : Claim} {l : List Claim} (h : ClaimListOk l) :
    (holdsKey n.key l = true ∧ placeClaim n l = .taken (insertClaim n (dropKey n.key l))) ∨
    (holdsKey n.key l = false ∧ l.length < 4 ∧ placeClaim n l = .taken (insertClaim n l)) ∨
    (∃ last, holdsKey n.key l = false ∧ l.length = 4 ∧ l.getLast? = some last ∧ last.cls.rank ≤ n.cls.rank ∧
      placeClaim n l = .evicted last (insertClaim n l.dropLast)) ∨
    (∃ last, holdsKey n.key l = false ∧ l.length = 4 ∧ l.getLast? = some last ∧ n.cls.rank < last.cls.rank ∧
      placeClaim n l = .refused) := by
  unfold placeClaim
  cases hk : holdsKey n.key l with
  | true => simp
  | false =>
    have := h.short
    by_cases hl : l.length < 4
    · simp [hl]
    · cases hg : l.getLast? with
      | none => rw [List.getLast?_eq_none_iff] at hg; subst hg; simp at hl
      | some last =>
        by_cases hr : n.cls.rank < last.cls.rank
        · simp [hl, hr]; omega
        · simp [hl, hr]; omega

/-- The list a placement leaves is in order (R97), and holds the claim and claims that were there. -/
theorem placeClaim_taken {n : Claim} {l m : List Claim} (h : ClaimListOk l)
    (hp : placeClaim n l = .taken m ∨ ∃ old, placeClaim n l = .evicted old m) :
    ClaimListOk m ∧ ∀ c ∈ m, c = n ∨ c ∈ l := by
  obtain ⟨hk, e⟩ | ⟨hk, hl, e⟩ | ⟨last, hk, hl, hg, hr, e⟩ | ⟨last, hk, hl, hg, hr, e⟩ := placeClaim_cases (n := n) h <;>
    rw [e] at hp <;> simp at hp <;> subst hp
  · refine ⟨(h.sublist List.filter_sublist).insert ?_ ?_, fun c hc => ?_⟩
    · have := dropKey_length_lt hk; have := h.short; unfold dropKey at *; omega
    · simp [List.mem_map]
    · rcases mem_insertClaim.mp hc with hc | hc
      · exact .inl hc
      · exact .inr (mem_dropKey.mp hc).1
  · refine ⟨h.insert (by omega) ?_, fun c hc => mem_insertClaim.mp hc⟩
    rw [← holdsKey_iff, hk]; simp
  · refine ⟨(h.sublist (List.dropLast_sublist l)).insert (by simp; omega) ?_, fun c hc => ?_⟩
    · intro hm
      have : n.key ∈ l.map Claim.key := ((List.dropLast_sublist l).map _).subset hm
      rw [← holdsKey_iff, hk] at this; simp at this
    · rcases mem_insertClaim.mp hc with hc | hc
      · exact .inl hc
      · exact .inr ((List.dropLast_sublist l).subset hc)

end Sys2Proof.Machine
end

