-- ==== Sys2Proof/Laws/Dispatches.lean ====
section
/-! SUPPORT. What a dispatch and a gesture can change: with nothing between its bindings, and with all that may come there (R63
to R68, R148). -/

namespace Sys2Proof.Machine

/-! ## The frames compose -/

theorem OnlyDispatched.refl {src : Source} (s : State) : OnlyDispatched src s s :=
  ⟨rfl, fun _ h => h, fun _ => ⟨rfl, fun _ => rfl⟩, fun _ => rfl, fun _ => ⟨rfl, rfl⟩⟩

theorem OnlyDispatched.carrying {src : Source} {s t : State} (h : OnlyDispatched src s t) : t.carrying = s.carrying := by
  rw [h.fields]

theorem OnlyDispatched.trans {src : Source} {s t u : State} (h : OnlyDispatched src s t) (k : OnlyDispatched src t u) :
    OnlyDispatched src s u := by
  refine ⟨by rw [k.fields, h.fields], fun hc ha => k.ahead (h.carrying.trans hc) (h.ahead hc ha),
    fun hs => ⟨(k.bus hs).1.trans (h.bus hs).1, fun a => ?_⟩, fun hl => ?_, fun hc => ?_⟩
  · rw [(k.bus hs).2 a, (h.bus hs).2 a]
  · exact (k.sampler (h.carrying ▸ hl)).trans (h.sampler hl)
  · obtain ⟨k1, k2⟩ := k.carried (h.carrying ▸ hc)
    exact ⟨k1.trans (h.carried hc).1, k2.trans (h.carried hc).2⟩

theorem OnlyBetween.dispatched {src : Source} {s t : State} (h : OnlyBetween src s t) : OnlyDispatched src s t :=
  ⟨by rw [h.fields], h.ahead, fun hs => ⟨(h.bus hs).1, fun a => by rw [(h.bus hs).2]⟩, h.sampler, h.carried⟩

theorem OnlyGestures.dispatched {src : Source} {s t : State} (h : OnlyGestures s t) : OnlyDispatched src s t :=
  ⟨by rw [h.fields], fun _ e => by rw [h.fields]; exact e, fun _ => ⟨by rw [h.fields], h.stations⟩, fun _ => by rw [h.fields],
    fun _ => ⟨by rw [h.fields], by rw [h.fields]⟩⟩

/-! ## The bindings that match -/

/-- The bindings a dispatch reaches are ones the table holds, enabled, with the source and the trigger (R63). -/
theorem mem_matching {src : Source} {t : Trigger} {s : State} {b : SlotId} {x : Binding} :
    (b, x) ∈ matching src t s ↔
      s.settings.bindings.get b = some x ∧ x.enabled = true ∧ x.source = src ∧ x.trigger = t := by
  unfold matching
  rw [List.mem_filterMap]
  constructor
  · rintro ⟨⟨b', o⟩, hm, he⟩
    rw [Table.mem_indexed] at hm
    cases o with
    | none => simp at he
    | some y =>
      simp only at he
      split at he
      · next h =>
        simp only [Option.some.injEq, Prod.mk.injEq] at he
        obtain ⟨rfl, rfl⟩ := he
        simp only [Bool.and_eq_true, decide_eq_true_eq] at h
        exact ⟨hm, h.1.1, h.1.2, h.2⟩
      · simp at he
  · rintro ⟨h, h1, h2, h3⟩
    exact ⟨(b, some x), Table.mem_indexed.mpr h, by simp [h1, h2, h3]⟩

/-- Where at most one binding matches, at most one is reached. -/
theorem matching_lone {src : Source} {trg : Trigger} {s : State} (h : AtMostOneMatches src trg s) :
    matching src trg s = [] ∨ ∃ bx, matching src trg s = [bx] := by
  have hn : ((matching src trg s).map (·.1)).Nodup := by
    have sub : ∀ l : List (SlotId × Option Binding), ((l.filterMap fun bx =>
        match bx.2 with
        | some x => if x.enabled && decide (x.source = src) && decide (x.trigger = trg) then some (bx.1, x) else none
        | none => none).map (·.1)).Sublist (l.map (·.1)) := by
      intro l
      induction l with
      | nil => exact List.Sublist.slnil
      | cons a l ih =>
        rw [List.filterMap_cons, List.map_cons]
        split
        · exact ih.cons _
        · next e =>
          split at e
          · split at e
            · cases e; exact ih.cons_cons _
            · cases e
          · cases e
    refine (sub s.settings.bindings.indexed).nodup ?_
    unfold Table.indexed
    rw [List.map_fst_zip (by rw [List.length_finRange, s.settings.bindings.size])]
    exact List.nodup_finRange _
  have hm : ∀ bx ∈ matching src trg s, ∀ cy ∈ matching src trg s, bx.1 = cy.1 := fun bx hb cy hc => by
    obtain ⟨b1, b2, b3, b4⟩ := mem_matching.mp hb
    obtain ⟨c1, c2, c3, c4⟩ := mem_matching.mp hc
    exact h _ _ _ _ b1 c1 b2 c2 b3 c3 b4 c4
  generalize matching src trg s = l at hn hm
  match l with
  | [] => exact .inl rfl
  | [bx] => exact .inr ⟨bx, rfl⟩
  | bx :: cy :: rest =>
    have e := hm bx (by simp) cy (by simp)
    simp [e] at hn

/-! ## A dispatch -/

theorem reachBinding_frame (sup : List ZoneId) (d : Dispatching) (bx : SlotId × Binding) :
    OnlyActions d.state (reachBinding sup d bx).state := by
  unfold reachBinding; split
  · exact OnlyActions.refl _
  · exact runAction_frame _ _ _

/-- A binding that is reached is acted on as the test of R64 has it. -/
@[simp] theorem reachBinding_state (sup : List ZoneId) (d : Dispatching) (bx : SlotId × Binding) :
    (reachBinding sup d bx).state = acted sup d.state bx := by
  simp only [reachBinding, acted, suppressed, Silenced, Bool.and_eq_true, Bool.or_eq_true, decide_eq_true_eq]
  split <;> rfl

/-- The state that the bindings of a list leave, whatever comes between two of them. -/
theorem reachBindings_state (gap : State → State) (sup : List ZoneId) (l : List (SlotId × Binding)) (d : Dispatching) :
    (reachBindings gap sup l d).state = afterBindings gap sup l d.state := by
  have h : ∀ (rest : List (SlotId × Binding)) (d : Dispatching), (rest.foldl (reachLater gap sup) d).state =
      rest.foldl (fun v bx => acted sup (gap v) bx) d.state := by
    intro rest
    induction rest with
    | nil => intro d; rfl
    | cons bx rest ih => intro d; simp only [List.foldl_cons, ih, reachLater, reachBinding_state]
  cases l with
  | nil => rfl
  | cons bx rest => simp only [reachBindings, afterBindings, h, reachBinding_state]

theorem reachBindings_frame {src : Source} (sup : List ZoneId) (l : List (SlotId × Binding)) (d : Dispatching) :
    OnlyBetween src d.state (reachBindings (betweenBindings src) sup l d).state := by
  unfold reachBindings; split
  · exact .refl _
  · next bx rest =>
    have key : ∀ (l : List (SlotId × Binding)) (d : Dispatching),
        OnlyBetween src d.state (l.foldl (reachLater (betweenBindings src) sup) d).state := by
      intro l
      induction l with
      | nil => exact fun d => .refl _
      | cons a l ih =>
        intro d
        exact ((betweenBindings_frame d.state).trans
          (reachBinding_frame sup { d with state := betweenBindings src d.state } a).between).trans (ih _)
    exact (reachBinding_frame sup d bx).between.trans (key _ _)

theorem releaseRamps_frame (src : Source) (t : Trigger) (s : State) :
    releaseRamps src t s = { s with ramps := (releaseRamps src t s).ramps } := by
  unfold releaseRamps; split <;> rfl

theorem startOverride_frame (src : Source) (held : Bool) (s : State) : OnlyGestures s (startOverride src held s) := by
  unfold startOverride; split
  · next a b =>
    refine ⟨rfl, fun j => ?_⟩
    simp only [State.setStation_stations, Table.get_set]
    split
    · next h => subst h; rfl
    · rfl
  all_goals exact OnlyGestures.refl s

/-- What a dispatch does before the override of a station's button. -/
theorem dispatch_told (src : Source) (t : Trigger) (sup : List ZoneId) (s : State) :
    ∃ held u, dispatch src t sup s = startOverride src held u ∧ OnlyBetween src s u ∧
      (AtMostOneMatches src t s → OnlyActions s u) := by
  have h1 : OnlyActions s (releaseRamps src t s) := by unfold OnlyActions; rw [releaseRamps_frame]
  have hm : matching src t (releaseRamps src t s) = matching src t s := by unfold matching; rw [releaseRamps_frame]
  have key : ∀ d : Dispatching, OnlyActions d.state
      (if reportsEvents d.state src then raise (.event src t (outcomeOf d.ran d.held)) d.state else d.state) := fun d => by
    split
    · exact (raise_frame _ _).claims.actions
    · exact OnlyActions.refl _
  refine ⟨_, _, rfl, ?_, fun h => ?_⟩
  · exact (h1.between.trans (reachBindings_frame sup (matching src t (releaseRamps src t s))
      { state := releaseRamps src t s, ran := false, held := false })).trans (key _).between
  · refine OnlyActions.trans ?_ (key _)
    rw [hm]
    rcases matching_lone h with e | ⟨bx, e⟩ <;> rw [e]
    · exact h1
    · exact h1.trans (reachBinding_frame sup { state := releaseRamps src t s, ran := false, held := false } bx)

theorem dispatch_frame (src : Source) (t : Trigger) (sup : List ZoneId) (s : State) :
    OnlyDispatched src s (dispatch src t sup s) := by
  obtain ⟨held, u, e, h, -⟩ := dispatch_told src t sup s
  rw [e]
  exact h.dispatched.trans (startOverride_frame _ _ _).dispatched

/-- With at most one binding to reach, a dispatch reaches what its action does, and overrides. -/
theorem dispatch_lone {src : Source} {t : Trigger} {s : State} (h : AtMostOneMatches src t s) (sup : List ZoneId) :
    OnlyGestures s (dispatch src t sup s) := by
  obtain ⟨held, u, e, -, k⟩ := dispatch_told src t sup s
  rw [e]
  exact (k h).gestures.trans (startOverride_frame _ _ _)

/-- A dispatch touches no tracker (R52). -/
theorem dispatch_trackers (src : Source) (t : Trigger) (sup : List ZoneId) (s : State) :
    (dispatch src t sup s).contactTrackers = s.contactTrackers ∧
    (dispatch src t sup s).ladderTrackers = s.ladderTrackers ∧
    (dispatch src t sup s).stationTrackers = s.stationTrackers := by
  obtain ⟨held, u, e, h, -⟩ := dispatch_told src t sup s
  have h4 : (startOverride src held u).contactTrackers = u.contactTrackers ∧
      (startOverride src held u).ladderTrackers = u.ladderTrackers ∧
      (startOverride src held u).stationTrackers = u.stationTrackers := by
    unfold startOverride; split <;> exact ⟨rfl, rfl, rfl⟩
  rw [e, h4.1, h4.2.1, h4.2.2, h.fields]
  exact ⟨rfl, rfl, rfl⟩

@[simp] theorem dispatch_tracker (src : Source) (t : Trigger) (sup : List ZoneId) (s : State) (other : Source) :
    (dispatch src t sup s).tracker other = s.tracker other :=
  let h := dispatch_trackers src t sup s
  State.tracker_congr h.1 h.2.1 h.2.2 other

/-! ## A gesture -/

theorem setTracker_frame (src : Source) (v : Tracker) (s : State) : OnlyGestures s (s.setTracker src v) := by
  cases src <;> exact ⟨rfl, fun _ => rfl⟩

theorem startGesture_frame (src : Source) (s : State) : OnlyDispatched src s (startGesture src s) :=
  (setTracker_frame _ _ _).dispatched.trans (dispatch_frame _ _ _ _)

theorem press_frame (src : Source) (s : State) : OnlyDispatched src s (press src s) := by
  unfold press; split
  all_goals first | exact startGesture_frame _ _ | exact OnlyDispatched.refl s

theorem endGesture_frame (src : Source) (l : List Trigger) (s : State) : OnlyDispatched src s (endGesture src l s) := by
  unfold endGesture; dsimp only
  refine OnlyDispatched.trans ?_ (setTracker_frame _ _ _).dispatched
  exact (setTracker_frame _ _ _).dispatched.trans
    (foldl_frame OnlyDispatched.refl OnlyDispatched.trans (fun _ _ => dispatch_frame _ _ _ _) _ _)

theorem release_frame (src : Source) (s : State) : OnlyDispatched src s (release src s) := by
  unfold release; split
  all_goals first | exact endGesture_frame _ _ _ | exact OnlyDispatched.refl s

theorem synthesizedRelease_frame (src : Source) (s : State) : OnlyDispatched src s (synthesizedRelease src s) := by
  unfold synthesizedRelease; split
  all_goals first | exact endGesture_frame _ _ _ | exact OnlyDispatched.refl s

theorem baseline_frame (src : Source) (s : State) : OnlyDispatched src s (baseline src s) := by
  unfold baseline; split
  · exact (setTracker_frame _ _ _).dispatched
  all_goals exact OnlyDispatched.refl s

theorem expireHold_frame (src : Source) (s : State) : OnlyDispatched src s (expireHold src s) :=
  (setTracker_frame _ _ _).dispatched.trans (dispatch_frame _ _ _ _)

theorem forButton_frame (ch : ChannelId) (n : Nat) (f : Source → State → State)
    (h : ∀ src s, OnlyDispatched src s (f src s)) (s : State) : OnlyDispatched (.ladder ch 0) s (forButton ch n f s) := by
  unfold forButton ladderSource; split
  · next src e =>
    split at e
    · cases e
      have k := h (.ladder ch ⟨n - 1, by omega⟩) s
      exact ⟨k.fields, k.ahead, k.bus, k.sampler, k.carried⟩
    · cases e
  · exact .refl s

theorem releaseStation_frame (a : StationId) (s : State) : OnlyDispatched (.station a 0) s (releaseStation a s) :=
  foldl_frame OnlyDispatched.refl OnlyDispatched.trans (fun s b => by
    have k := synthesizedRelease_frame (.station a b) s
    exact ⟨k.fields, k.ahead, k.bus, k.sampler, k.carried⟩) _ s

end Sys2Proof.Machine
end

