-- ==== Sys2Proof/Laws/Kept.lean ====
section
/-! SUPPORT. A property that the pieces of a dispatch and of a gesture keep is kept by them: one passage through the dispatcher
and the gesture unit, for every property. -/

namespace Sys2Proof.Machine

/-- A property that a report, the end of ramps, every binding that runs, and what comes between two of them keep. -/
structure KeptByActions (P : State → Prop) : Prop extends KeptByComings P where
  raise : ∀ r s, P s → P (raise r s)
  ramps : ∀ w s, P s → P (endRamps w s)
  run : ∀ sup b x s, P s → s.settings.bindings.get b = some x → suppressed sup x s = false → P (runAction b x s)

/-- A property that gestures keep: each arrival at a tracker, and the expiry of a hold timer that runs. -/
structure KeptByGestures (P : State → Prop) : Prop extends KeptByActions P where
  press : ∀ src s, P s → P (press src s)
  release : ∀ src s, P s → P (release src s)
  synthesized : ∀ src s, P s → P (synthesizedRelease src s)
  baseline : ∀ src s, P s → P (baseline src s)
  expire : ∀ src s, P s → (s.tracker src).state = .down → (s.tracker src).timer.isSome = true → P (expireHold src s)

variable {P : State → Prop}

theorem reachBinding_kept (K : KeptByActions P) (sup : List ZoneId) (d : Dispatching) (bx : SlotId × Binding)
    (hb : d.state.settings.bindings.get bx.1 = some bx.2) (h : P d.state) : P (reachBinding sup d bx).state := by
  unfold reachBinding; split
  · exact h
  · next hs => exact K.run sup _ _ _ h hb (by simpa using hs)

theorem reachBindings_kept (K : KeptByActions P) (src : Source) (sup : List ZoneId) (l : List (SlotId × Binding))
    (d : Dispatching) (hl : ∀ bx ∈ l, d.state.settings.bindings.get bx.1 = some bx.2) (h : P d.state) :
    P (reachBindings (betweenBindings src) sup l d).state := by
  have stays : ∀ (d : Dispatching) (bx : SlotId × Binding),
      (reachBinding sup d bx).state.settings.bindings = d.state.settings.bindings := fun d bx => by
    rw [(reachBinding_frame sup d bx).between (src := src) |>.fields]
  have key : ∀ (l : List (SlotId × Binding)) (d : Dispatching),
      (∀ bx ∈ l, d.state.settings.bindings.get bx.1 = some bx.2) → P d.state →
      P (l.foldl (reachLater (betweenBindings src) sup) d).state := by
    intro l
    induction l with
    | nil => exact fun d _ h => h
    | cons bx l ih =>
      intro d hl h
      have hg : (betweenBindings src d.state).settings.bindings = d.state.settings.bindings := by
        rw [(betweenBindings_frame d.state).fields]
      refine ih _ (fun y hy => ?_) (reachBinding_kept K sup _ bx ?_ (betweenBindings_kept K.toKeptByComings src _ h))
      · unfold reachLater
        rw [stays]
        exact hg ▸ hl y (List.mem_cons_of_mem _ hy)
      · exact hg ▸ hl bx List.mem_cons_self
  unfold reachBindings; split
  · exact h
  · next bx rest =>
    refine key rest _ (fun y hy => ?_) (reachBinding_kept K sup d bx (hl bx List.mem_cons_self) h)
    rw [stays]
    exact hl y (List.mem_cons_of_mem _ hy)

theorem releaseRamps_kept (K : KeptByActions P) (src : Source) (t : Trigger) (s : State) (h : P s) :
    P (releaseRamps src t s) := by
  unfold releaseRamps; split
  · exact K.ramps _ _ h
  all_goals exact h

theorem dispatch_kept (K : KeptByActions P) (src : Source) (t : Trigger) (sup : List ZoneId) (s : State) (h : P s) :
    P (dispatch src t sup s) := by
  unfold dispatch dispatchWith; dsimp only
  have h1 := releaseRamps_kept K src t s h
  have h2 := reachBindings_kept K src sup (matching src t (releaseRamps src t s))
    { state := releaseRamps src t s, ran := false, held := false } (fun bx hb => (mem_matching.mp hb).1) h1
  generalize reachBindings (betweenBindings src) sup (matching src t (releaseRamps src t s))
    { state := releaseRamps src t s, ran := false, held := false } = d at h2 ⊢
  have h3 : P (if reportsEvents d.state src then raise (.event src t (outcomeOf d.ran d.held)) d.state else d.state) := by
    split
    · exact K.raise _ _ h2
    · exact h2
  unfold startOverride
  split
  · exact K.station _ _ _ h3 rfl rfl
  all_goals exact h3

theorem endGesture_kept (K : KeptByActions P) (tracker : ∀ src v s, P s → P (s.setTracker src v)) (src : Source)
    (l : List Trigger) (s : State) (h : P s) : P (endGesture src l s) := by
  unfold endGesture
  exact tracker _ _ _ (foldl_kept (fun _ _ h => dispatch_kept K _ _ _ _ h) _ _ (tracker _ _ _ h))

/-- A property that does not depend on the trackers, and that dispatches keep, is kept by gestures. -/
theorem KeptByGestures.ofTracker (K : KeptByActions P) (tracker : ∀ src v s, P s → P (s.setTracker src v)) :
    KeptByGestures P where
  toKeptByActions := K
  press src s h := by
    unfold Machine.press; split
    all_goals first | exact dispatch_kept K _ _ _ _ (tracker _ _ _ h) | exact h
  release src s h := by
    unfold Machine.release; split
    all_goals first | exact endGesture_kept K tracker _ _ _ h | exact h
  synthesized src s h := by
    unfold synthesizedRelease; split
    all_goals first | exact endGesture_kept K tracker _ _ _ h | exact h
  baseline src s h := by
    unfold Machine.baseline; split
    · exact tracker _ _ _ h
    all_goals exact h
  expire src s h _ _ := dispatch_kept K _ _ _ _ (tracker _ _ _ h)

theorem forButton_kept {f : Source → State → State} (hf : ∀ src s, P s → P (f src s)) (ch : ChannelId) (n : Nat)
    (s : State) (h : P s) : P (forButton ch n f s) := by
  unfold forButton; split
  · exact hf _ _ h
  · exact h

end Sys2Proof.Machine
end

