-- ==== Sys2Proof/Laws/Events.lean ====
section
/-! SUPPORT. A property that the blocks keep is kept by every command that is neither a request nor a start. -/

namespace Sys2Proof.Machine

/-- A property that each block keeps: what a command other than a request or a start is made of. -/
structure KeptByEvents (P : State → Prop) : Prop extends KeptByGestures P where
  input : ∀ i v s, P s → P (s.setInput i v)
  /-- The time between two ticks passes (notes/assumptions/2.md). -/
  passed : ∀ s, P s → P (passTime s)

variable {P : State → Prop}

/-- The releases that gestures make keep what gestures keep. -/
theorem KeptByRelease.synthesized (K : KeptByGestures P) : KeptByRelease P synthesizedRelease where
  keeps src s h := K.synthesized src s h
  stations a b s := by rw [(synthesizedRelease_frame (.station a b) s).fields]
  ladders ch b s := (synthesizedRelease_frame (.ladder ch b) s).sampler (.inl rfl)

/-! ## Contact inputs -/

theorem acceptChange_kept (K : KeptByEvents P) (i : InputId) (raw : Contact) (s : State) (h : P s) :
    P (acceptChange i raw s) := by
  unfold acceptChange; dsimp only
  split
  · split
    · exact K.press _ _ (K.input _ _ _ h)
    · exact K.release _ _ (K.input _ _ _ h)
  · exact K.input _ _ _ h

theorem settle_kept (K : KeptByEvents P) (i : InputId) (raw : Contact) (a : Bool) (s : State) (h : P s) :
    P (settle i raw a s) := by
  unfold settle handSettled; dsimp only
  split
  · split
    · exact K.press _ _ (K.input _ _ _ h)
    · exact K.baseline _ _ (K.input _ _ _ h)
  · exact K.input _ _ _ h

theorem sampleContact_kept (K : KeptByEvents P) (i : InputId) (raw : Contact) (s : State) (h : P s) :
    P (sampleContact i raw s) := by
  unfold sampleContact; dsimp only
  split
  · exact h
  · exact h
  · split
    · exact settle_kept K _ _ _ _ h
    · exact K.input _ _ _ h
  · split
    · exact K.input _ _ _ h
    · split
      · exact acceptChange_kept K _ _ _ h
      · exact K.input _ _ _ h

/-! ## Ladder channels -/

/-- A window that a reading lies in has a number of 0 to 6. -/
theorem windowOf_le {ls : LadderSettings} {reading w : Nat} (h : windowOf ls reading = some w) : w ≤ 6 := by
  unfold windowOf at h
  obtain ⟨x, -, rfl⟩ := Option.map_eq_some_iff.mp h
  omega

theorem windowSample_kept (K : KeptByEvents P) (ch : ChannelId) (w : Nat) (hw : w ≤ 6) (s : State) (h : P s) :
    P (windowSample ch w s) := by
  unfold windowSample; dsimp only
  split
  · split
    · exact forButton_kept (fun _ _ h => K.baseline _ _ h) _ _ _ (K.ladder _ _ _ h rfl (.inr hw))
    · split
      · exact K.ladder _ _ _ h rfl (.inl rfl)
      · exact forButton_kept (fun _ _ h => K.press _ _ h) _ _ _
          (forButton_kept (fun _ _ h => K.release _ _ h) _ _ _ (K.ladder _ _ _ h rfl (.inr hw)))
  · exact K.ladder _ _ _ h rfl (.inl rfl)

theorem sampleLadder_kept (K : KeptByEvents P) (ch : ChannelId) (reading : Nat) (s : State) (h : P s) :
    P (sampleLadder ch reading s) := by
  unfold sampleLadder
  split
  · exact h
  · next hn =>
    split
    · next hw => exact windowSample_kept K _ _ (windowOf_le hw) _ h
    · unfold indeterminateSample; dsimp only
      split
      · exact enterFaultBy_kept K.toKeptByComings (.synthesized K.toKeptByGestures) _ _ h (by rw [hn]; simp)
      · exact K.ladder _ _ _ h rfl (.inl rfl)
  · next hn =>
    exact faultSample_kept K.toKeptByComings _ _ _ h hn

/-! ## Stations -/

theorem stateTurn_kept (K : KeptByEvents P) (t : Turn) (m : BitVec 8) (s : State) (h : P s) : P (stateTurn t m s) := by
  unfold stateTurn; dsimp only
  refine endTurn_kept K.toKeptByComings _ _ ?_
  split
  · exact deferredTransitionBy_kept K.toKeptByComings (.synthesized K.toKeptByGestures) _ _ h
  · split
    · unfold baselineMap; dsimp only
      exact foldl_kept (fun _ _ h => K.baseline _ _ h) _ _ (K.station _ _ _ h rfl rfl)
    · unfold compareMap; dsimp only
      refine K.station _ _ _ ?_ rfl rfl
      refine foldl_kept (fun s b h => ?_) _ _ (K.station _ _ _ h rfl rfl)
      unfold compareButton; split
      · exact h
      · split
        · exact K.press _ _ h
        · exact K.release _ _ h

/-! ## The commands -/

/-- Every command but a request or a start. -/
def isPlain : Instr → Bool
  | .powerOn | .resetLine | .resetInputAsserted | .lossOfSupply => false
  | c => (requestOf c).isNone

/-- A property that each block keeps is kept by every command but requests and starts. -/
theorem exec_kept (K : KeptByEvents P) (c : Instr) (hc : isPlain c = true) (s : State) (h : P s) : Gives P (exec c s) := by
  have free := fun hc => exec_comesAsItself K.toKeptByComings c hc s h
  have R : KeptByRelease P synthesizedRelease := .synthesized K.toKeptByGestures
  cases c with
  | contactSample i raw =>
    show Gives P (execContactSample i raw s)
    unfold execContactSample; exact event_gives K.serve h fun _ => sampleContact_kept K _ _ _ h
  | changeAccepted i raw =>
    show Gives P (execChangeAccepted i raw s)
    unfold execChangeAccepted; exact eventIf_gives K.serve h fun _ _ => sampleContact_kept K _ _ _ h
  | settlingComplete i raw =>
    show Gives P (execSettlingComplete i raw s)
    unfold execSettlingComplete; exact eventIf_gives K.serve h fun _ _ => sampleContact_kept K _ _ _ h
  | ladderSample ch r =>
    show Gives P (execLadderSample ch r s)
    unfold execLadderSample; exact event_gives K.serve h fun _ => sampleLadder_kept K _ _ _ h
  | ladderDecodeChange ch r =>
    show Gives P (execLadderDecodeChange ch r s)
    unfold execLadderDecodeChange; exact eventIf_gives K.serve h fun _ _ => sampleLadder_kept K _ _ _ h
  | ladderBaseline ch r =>
    show Gives P (execLadderBaseline ch r s)
    unfold execLadderBaseline; exact eventIf_gives K.serve h fun _ _ => sampleLadder_kept K _ _ _ h
  | stateReply r =>
    show Gives P (execStateReply r s)
    unfold execStateReply
    refine eventIf_gives K.serve h fun _ _ => ?_
    split
    · exact stateTurn_kept K _ _ _ h
    · exact h
  | holdTimerExpiry src =>
    show Gives P (execHoldTimerExpiry src s)
    unfold execHoldTimerExpiry; refine eventIf_gives K.serve h fun _ ht => ?_
    simp only [Bool.and_eq_true, decide_eq_true_eq] at ht
    exact K.expire _ _ h ht.1 ht.2
  | tick => exact event_gives K.serve h fun _ => K.tick _ (K.passed _ h)
  | fadeEnd c => exact eventIf_gives K.serve h fun _ _ => K.tick _ (K.passed _ h)
  | identReply r => exact execIdentReplyBy_gives K.toKeptByComings R r s h
  | badReply r => exact execBadReplyBy_gives K.toKeptByComings R r s h
  | replyWindowClose => exact execReplyWindowCloseBy_gives K.toKeptByComings R s h
  | stationGoesMissing r => exact execStationGoesMissingBy_gives K.toKeptByComings R r s h
  | ladderFaultEntry ch n => exact execLadderFaultEntryBy_gives K.toKeptByComings R ch n s h
  | replyWindowOpen | flash3OverrideEnd | ladderRecovery | dwellEnd | zeroCrossing | mainsLock | mainsSilenceExpiry
  | releaseTimerExpiry | characterReceived | gapTimerExpiry | silenceTimerExpiry | transmitFrameEnd | damagedEntry
  | unknownKind | saveEnd => exact free rfl
  | _ => simp [isPlain, requestOf] at hc

end Sys2Proof.Machine
end

