-- ==== Sys2Proof/Laws/Gestures.lean ====
section
/-! SUPPORT. What each arrival does to the trackers (R45 to R50): the tracker it reaches, and no other. -/

namespace Sys2Proof.Machine

variable (src : Source) (s : State)

/-! ## What gestures leave alone -/

variable {src} {s} {t : State}

/-- The settings of the inputs, the channels, the stations and the bindings, which nothing writes in a dispatch (R62). -/
theorem OnlyDispatched.settings (h : OnlyDispatched src s t) : t.settings = { s.settings with
    scenes := t.settings.scenes, circuits := t.settings.circuits, zones := t.settings.zones,
    annunciators := t.settings.annunciators, general := t.settings.general } := congrArg State.settings h.fields
theorem OnlyDispatched.inputSettings (h : OnlyDispatched src s t) : t.settings.inputs = s.settings.inputs := by
  rw [h.settings]
theorem OnlyDispatched.ladderSettings (h : OnlyDispatched src s t) : t.settings.ladders = s.settings.ladders := by
  rw [h.settings]
theorem OnlyDispatched.stationSettings (h : OnlyDispatched src s t) : t.settings.stations = s.settings.stations := by
  rw [h.settings]
theorem OnlyDispatched.bindings (h : OnlyDispatched src s t) : t.settings.bindings = s.settings.bindings := by
  rw [h.settings]
theorem OnlyDispatched.inputs (h : OnlyDispatched src s t) : t.inputs = s.inputs := by rw [h.fields]
theorem OnlyDispatched.power (h : OnlyDispatched src s t) : t.power = s.power := by rw [h.fields]
theorem OnlyDispatched.pending (h : OnlyDispatched src s t) : t.pending = s.pending := by rw [h.fields]

/-- Where at most one binding matches before a gesture, at most one does after it. -/
theorem OnlyDispatched.lone (h : OnlyDispatched src s t) {other : Source} {trg : Trigger}
    (k : AtMostOneMatches other trg s) : AtMostOneMatches other trg t := by
  unfold AtMostOneMatches at k ⊢
  rw [h.bindings]
  exact k

variable (src) (s)

/-! ## The trackers of other sources -/

variable {src} {other : Source}

theorem startGesture_other (h : other ≠ src) : (startGesture src s).tracker other = s.tracker other := by
  unfold startGesture
  rw [dispatch_tracker, State.tracker_setTracker_ne _ _ h.symm]

theorem press_other (h : other ≠ src) : (press src s).tracker other = s.tracker other := by
  unfold press; split <;> first | exact startGesture_other s h | rfl

theorem foldl_dispatch_tracker (l : List Trigger) (sup : List ZoneId) :
    (l.foldl (fun s trg => dispatch src trg sup s) s).tracker other = s.tracker other := by
  induction l generalizing s with
  | nil => rfl
  | cons t l ih => rw [List.foldl_cons, ih, dispatch_tracker]

theorem endGesture_other (l : List Trigger) (h : other ≠ src) : (endGesture src l s).tracker other = s.tracker other := by
  unfold endGesture; dsimp only
  rw [State.tracker_setTracker_ne _ _ h.symm, foldl_dispatch_tracker, State.tracker_setTracker_ne _ _ h.symm]

theorem release_other (h : other ≠ src) : (release src s).tracker other = s.tracker other := by
  unfold release; split <;> first | exact endGesture_other s _ h | rfl

theorem synthesizedRelease_other (h : other ≠ src) : (synthesizedRelease src s).tracker other = s.tracker other := by
  unfold synthesizedRelease; split <;> first | exact endGesture_other s _ h | rfl

theorem baseline_other (h : other ≠ src) : (baseline src s).tracker other = s.tracker other := by
  unfold baseline; split <;> first | exact State.tracker_setTracker_ne _ _ h.symm | rfl

/-! ## The tracker reached -/

variable (src)

/-- A press on a tracker in IDLE or LATENT records a gesture just started (R45). -/
theorem press_starts (h : (s.tracker src).state = .idle ∨ (s.tracker src).state = .latent) :
    (press src s).tracker src = pressedTracker s src := by
  have key : (startGesture src s).tracker src = pressedTracker s src := by
    unfold startGesture; rw [dispatch_tracker, State.tracker_setTracker_self]
  unfold press
  rcases h with h | h <;> rw [h] <;> exact key

/-- A press on a tracker in DOWN or HELD does nothing (R50). -/
theorem press_ignored (h : (s.tracker src).state = .down ∨ (s.tracker src).state = .held) : press src s = s := by
  unfold press; rcases h with h | h <;> rw [h]

theorem endGesture_self (l : List Trigger) : (endGesture src l s).tracker src = Tracker.idle := by
  unfold endGesture; dsimp only
  rw [State.tracker_setTracker_self]

/-- After a release a tracker is IDLE (R47, R48, R50). -/
theorem release_idle : ((release src s).tracker src).state = .idle := by
  unfold release; split <;> first | assumption | (rw [endGesture_self]; rfl)

/-- After a synthesized release a tracker is IDLE (R49). -/
theorem synthesizedRelease_idle : ((synthesizedRelease src s).tracker src).state = .idle := by
  unfold synthesizedRelease; split <;> first | assumption | (rw [endGesture_self]; rfl)

/-- A baseline takes a tracker from IDLE to LATENT (R48). -/
theorem baseline_latent (h : (s.tracker src).state = .idle) : baseline src s = s.setTracker src Tracker.latent := by
  unfold baseline; rw [h]

/-- A baseline on any other tracker does nothing (R50). -/
theorem baseline_ignored (h : (s.tracker src).state ≠ .idle) : baseline src s = s := by
  unfold baseline; split <;> first | contradiction | rfl

/-! ## The stations a gesture reaches -/

/-- A dispatch of a station's button changes the overrides of no other station (R37). -/
theorem dispatch_stations (t : Trigger) (sup : List ZoneId) (a : StationId) (ho : ofStation src = true)
    (h : ∀ b, src ≠ .station a b) : (dispatch src t sup s).stations.get a = s.stations.get a := by
  obtain ⟨held, u, e, k, -⟩ := dispatch_told src t sup s
  rw [e, ← (k.bus ho).2]
  cases src with
  | contact i => cases ho
  | ladder ch b => cases ho
  | station a' b =>
    have : a' ≠ a := fun e => h b (by rw [e])
    cases held
    · rfl
    · exact Table.get_set_ne _ _ this

theorem setTracker_stations_get (v : Tracker) (a : StationId) :
    (s.setTracker src v).stations.get a = s.stations.get a := by rw [State.setTracker_stations]

theorem endGesture_stations (l : List Trigger) (a : StationId) (ho : ofStation src = true) (h : ∀ b, src ≠ .station a b) :
    (endGesture src l s).stations.get a = s.stations.get a := by
  unfold endGesture; dsimp only
  rw [setTracker_stations_get]
  generalize hu : s.setTracker src { s.tracker src with timer := none } = u
  have : u.stations.get a = s.stations.get a := by rw [← hu, setTracker_stations_get]
  rw [← this]
  clear hu this
  induction l generalizing u with
  | nil => rfl
  | cons t l ih => rw [List.foldl_cons, ih, dispatch_stations _ _ _ _ _ ho h]

theorem press_stations (a : StationId) (ho : ofStation src = true) (h : ∀ b, src ≠ .station a b) :
    (press src s).stations.get a = s.stations.get a := by
  unfold press startGesture
  split <;> first | rfl | (dsimp only; rw [dispatch_stations _ _ _ _ _ ho h, setTracker_stations_get])

theorem release_stations (a : StationId) (ho : ofStation src = true) (h : ∀ b, src ≠ .station a b) :
    (release src s).stations.get a = s.stations.get a := by
  unfold release; split <;> first | exact endGesture_stations _ _ _ _ ho h | rfl

theorem synthesizedRelease_stations (a : StationId) (ho : ofStation src = true) (h : ∀ b, src ≠ .station a b) :
    (synthesizedRelease src s).stations.get a = s.stations.get a := by
  unfold synthesizedRelease; split <;> first | exact endGesture_stations _ _ _ _ ho h | rfl

/-- A source at rest has nothing to release (R50), so a release that is not handed on is the release itself. -/
theorem synthesizedRelease_atRest (h : (s.tracker src).state = .idle) :
    synthesizedRelease src s = releaseNothing src s := by
  unfold synthesizedRelease releaseNothing; rw [h]

/-! ## Turns and faults at rest: with no gesture in progress, handing releases on is handing nothing on -/

theorem releaseStation_atRest (a : StationId) (s : State) (h : ∀ b, (s.tracker (.station a b)).state = .idle) :
    releaseStationBy synthesizedRelease a s = releaseStationBy releaseNothing a s := by
  rw [releaseStationBy_nothing]
  unfold releaseStationBy
  generalize heldButtons _ = l
  induction l with
  | nil => rfl
  | cons b l ih => rw [List.foldl_cons, synthesizedRelease_atRest _ _ (h b)]; exact ih

theorem deferredTransition_atRest (a : StationId) (s : State) (h : ∀ b, (s.tracker (.station a b)).state = .idle) :
    deferredTransitionBy synthesizedRelease a s = deferredTransitionBy releaseNothing a s := by
  unfold deferredTransitionBy restartStationBy
  rw [releaseStation_atRest a s h]

theorem goMissing_atRest (a : StationId) (s : State) (h : ∀ b, (s.tracker (.station a b)).state = .idle) :
    goMissingBy synthesizedRelease a s = goMissingBy releaseNothing a s := by
  unfold goMissingBy
  rw [releaseStation_atRest a s h]

theorem failTurn_atRest (t : Turn) (bad : Bool) (s : State)
    (h : ∀ b, (s.tracker (.station t.address b)).state = .idle) :
    failTurnBy synthesizedRelease t bad s = failTurnBy releaseNothing t bad s := by
  have h' : ∀ b, ((countFailure t.address bad s).tracker (.station t.address b)).state = .idle := h
  unfold failTurnBy
  simp only [deferredTransition_atRest _ _ h', goMissing_atRest _ _ h']

theorem identTurn_atRest (t : Turn) (code : Byte) (n : Nat) (s : State)
    (h : ∀ b, (s.tracker (.station t.address b)).state = .idle) :
    identTurnBy synthesizedRelease t code n s = identTurnBy releaseNothing t code n s := by
  unfold identTurnBy
  simp only [deferredTransition_atRest _ _ h]

/-- What a turn at rest says of the open turn's station. -/
theorem turnAtRest_idle {s : State} (h : turnAtRest s = true) {t : Turn} (ht : openTurn s = some t) (b : ButtonId) :
    (s.tracker (.station t.address b)).state = .idle := by
  obtain ⟨e, -⟩ := Option.filter_eq_some_iff.mp ht
  unfold turnAtRest at h
  rw [e] at h
  simp only [List.all_eq_true, decide_eq_true_eq] at h
  exact h _ (by simp [State.tracker, Table.get])

theorem enterFault_atRest (ch : ChannelId) (s : State) (h : channelAtRest ch s = true) :
    enterFaultBy synthesizedRelease ch s = enterFaultBy releaseNothing ch s := by
  have e : forButton ch (s.ladders.get ch).decode synthesizedRelease s =
      forButton ch (s.ladders.get ch).decode releaseNothing s := by
    unfold forButton ladderSource; split
    · next e =>
      split at e
      · cases e
        refine synthesizedRelease_atRest _ _ ?_
        unfold channelAtRest at h
        simp only [List.all_eq_true, decide_eq_true_eq] at h
        exact h _ (by simp [State.tracker, Table.get])
      · cases e
    · rfl
  unfold enterFaultBy
  rw [e]

end Sys2Proof.Machine
end

