-- ==== Sys2Proof/Laws/Levels.lean ====
section
/-! SUPPORT. What the level engine and the relay sequencer do to one circuit's record (R105, R119 to R122, R126 to R134,
R157 to R164). -/

namespace Sys2Proof.Machine

/-! ## Targets and fades -/

@[simp] theorem Circuit.headFor_claims (t f : Nat) (c : Circuit) : (c.headFor t f).claims = c.claims := by
  unfold Circuit.headFor; split <;> (try split) <;> (try split) <;> rfl
@[simp] theorem Circuit.headFor_output (t f : Nat) (c : Circuit) : (c.headFor t f).output = c.output := by
  unfold Circuit.headFor; split <;> (try split) <;> (try split) <;> rfl
@[simp] theorem Circuit.headFor_request (t f : Nat) (c : Circuit) : (c.headFor t f).request = c.request := by
  unfold Circuit.headFor; split <;> (try split) <;> (try split) <;> rfl
@[simp] theorem Circuit.headFor_relay (t f : Nat) (c : Circuit) : (c.headFor t f).relay = c.relay := by
  unfold Circuit.headFor; split <;> (try split) <;> (try split) <;> rfl

@[simp] theorem Circuit.retarget_claims (cs : CircuitSettings) (f : Nat) (c : Circuit) :
    (c.retarget cs f).claims = c.claims := Circuit.headFor_claims _ _ _
@[simp] theorem Circuit.retarget_request (cs : CircuitSettings) (f : Nat) (c : Circuit) :
    (c.retarget cs f).request = c.request := Circuit.headFor_request _ _ _
@[simp] theorem Circuit.retarget_relay (cs : CircuitSettings) (f : Nat) (c : Circuit) :
    (c.retarget cs f).relay = c.relay := Circuit.headFor_relay _ _ _

/-- The target depends on the settings and the claims alone. -/
theorem Circuit.target_congr {cs : CircuitSettings} {c d : Circuit} (h : c.claims = d.claims) :
    c.target cs = d.target cs := by unfold Circuit.target; rw [h]

/-- A sound level that heads for a target under new claims stays sound (R105, R120, R122). -/
theorem Circuit.Sound.headFor {cs : CircuitSettings} {c : Circuit} (fade : Nat) (ht : c.target cs ≤ 1000)
    (hl : c.level ≤ 1000) (ho : c.output ≤ 255) (hc : ∀ cl ∈ c.claims, cl.level ≤ 1000)
    (hf : ∀ f, c.fade = some f → f.Sound c.level) : (c.headFor (c.target cs) fade).Sound cs := by
  have key : ∀ d : Circuit, d.claims = c.claims → d.target cs = c.target cs := fun d h => Circuit.target_congr h
  have clm : ∀ d : Circuit, d.claims = c.claims → ∀ cl ∈ d.claims, cl.level ≤ 1000 := fun d h => h ▸ hc
  unfold Circuit.headFor
  split
  · next ha =>
    refine ⟨hc, hl, ho, fun hn => ?_, fun f hs => ⟨?_, hf f hs⟩⟩
    · rw [ha]; simp [Circuit.aim, hn]
    · rw [ha]; simp [Circuit.aim, hs]
  · split
    · next he =>
      refine ⟨clm _ rfl, hl, ho, fun _ => ?_, fun f hs => by simp at hs⟩
      exact he.symm
    · next hne =>
      split
      · refine ⟨clm _ rfl, ht, ho, fun _ => ?_, fun f hs => by simp at hs⟩
        exact (key _ rfl).symm
      · next hz =>
        refine ⟨clm _ rfl, hl, ho, fun hn => by simp at hn, fun f hs => ?_⟩
        simp only [Option.some.injEq] at hs
        subst hs
        exact ⟨(key _ rfl).symm, fun e => hne e.symm, by show 1 ≤ 5 * fade; omega, by show 0 < 5 * fade; omega, hl,
          by show min c.level (c.target cs) ≤ c.level ∧ c.level ≤ max c.level (c.target cs); omega⟩

theorem Circuit.target_le {cs : CircuitSettings} {c : Circuit} (hr : cs.rest ≤ 1000)
    (hc : ∀ cl ∈ c.claims, cl.level ≤ 1000) : c.target cs ≤ 1000 := by
  unfold Circuit.target; split
  · exact hr
  · next h => rw [h] at hc; exact hc _ List.mem_cons_self

/-- A change of claims that is handed to the level engine keeps a circuit sound (R105). -/
theorem Circuit.Sound.retarget {cs : CircuitSettings} {c : Circuit} (h : c.Sound cs) (hr : cs.rest ≤ 1000)
    {l : List Claim} (hc : ∀ cl ∈ l, cl.level ≤ 1000) (fade : Nat) : ({ c with claims := l }.retarget cs fade).Sound cs :=
  Circuit.Sound.headFor (c := { c with claims := l }) fade (Circuit.target_le hr hc) h.level h.output hc
    fun f hs => (h.fading f hs).2

/-- A step of a fade stays between its ends (R121). -/
theorem Fade.levelAt_between {f : Fade} {k : Nat} (hk : k ≤ f.steps) :
    min f.start f.target ≤ f.levelAt k ∧ f.levelAt k ≤ max f.start f.target := by
  have part : ∀ d, d * k / f.steps ≤ d := fun d => by
    rcases Nat.eq_zero_or_pos f.steps with hz | _
    · rw [hz]; simp
    · exact Nat.div_le_of_le_mul (by rw [Nat.mul_comm]; exact Nat.mul_le_mul_right _ hk)
  unfold Fade.levelAt
  split
  · next h =>
    have hp := part (f.target - f.start)
    generalize (f.target - f.start) * k / f.steps = q at *
    omega
  · next h =>
    have hp := part (f.start - f.target)
    generalize (f.start - f.target) * k / f.steps = q at *
    omega

@[simp] theorem Circuit.fadeStep_claims (c : Circuit) : c.fadeStep.claims = c.claims := by
  unfold Circuit.fadeStep; split <;> (try split) <;> rfl
@[simp] theorem Circuit.fadeStep_request (c : Circuit) : c.fadeStep.request = c.request := by
  unfold Circuit.fadeStep; split <;> (try split) <;> rfl
@[simp] theorem Circuit.fadeStep_relay (c : Circuit) : c.fadeStep.relay = c.relay := by
  unfold Circuit.fadeStep; split <;> (try split) <;> rfl

/-- A fade step keeps a circuit sound (R121). -/
theorem Circuit.Sound.fadeStep {cs : CircuitSettings} {c : Circuit} (h : c.Sound cs) (hr : cs.rest ≤ 1000) :
    c.fadeStep.Sound cs := by
  have key : ∀ d : Circuit, d.claims = c.claims → d.target cs = c.target cs := fun d h => Circuit.target_congr h
  have ht := Circuit.target_le hr h.claims
  unfold Circuit.fadeStep
  split
  · exact h
  · next f hf =>
    obtain ⟨h1, h2⟩ := h.fading f hf
    split
    · refine ⟨h.claims, by rw [h1]; exact ht, h.output, fun _ => h1, fun g hg => by simp at hg⟩
    · next hk =>
      have hb := Fade.levelAt_between (f := f) (k := f.count + 1) (by omega)
      refine ⟨h.claims, ?_, h.output, fun hn => by simp at hn, fun g hg => ?_⟩
      · have := h2.start; show f.levelAt (f.count + 1) ≤ 1000; omega
      · simp only [Option.some.injEq] at hg
        subst hg
        exact ⟨h1, h2.moves, h2.length, by show f.count + 1 < f.steps; omega, h2.start, hb⟩

/-- A clamped level is at most the cap (R131). -/
theorem clampLevel_le (cs : CircuitSettings) (n : Nat) : clampLevel cs n ≤ cs.cap := Nat.min_le_right _ _

/-- An output value is at most 255 (R131 to R134). -/
theorem outputOf_le {cs : CircuitSettings} (h : cs.cap ≤ 1000) (n : Nat) (r : Bool) : outputOf cs n r ≤ 255 := by
  have hc := clampLevel_le cs n
  unfold outputOf; split
  · unfold linearOutput; omega
  · unfold squareOutput
    have : clampLevel cs n * clampLevel cs n ≤ 1000 * 1000 := Nat.mul_le_mul (by omega) (by omega)
    omega
  · split <;> omega

/-- Stage 3 keeps a circuit sound (R123). -/
theorem Circuit.Sound.convert {cs : CircuitSettings} {c : Circuit} (h : c.Sound cs) (hc : cs.cap ≤ 1000) (locked : Bool) :
    (c.convert locked cs).Sound cs :=
  ⟨h.claims, h.level, outputOf_le hc _ _, h.resting, h.fading⟩

theorem rampLevel_le {cs : CircuitSettings} (h : cs.cap ≤ 1000) (d : Direction) (step : Nat) {n : Nat} (hn : n ≤ 1000) :
    rampLevel d step (rampLimit cs) n ≤ 1000 := by
  have hl : rampLimit cs ≤ 1000 := by unfold rampLimit; split <;> omega
  unfold rampLevel; split
  · split <;> omega
  · omega

/-- A ramp step keeps a circuit sound (R104, R127). -/
theorem Circuit.Sound.ramp {cs : CircuitSettings} {c : Circuit} (h : c.Sound cs) (hc : cs.cap ≤ 1000) (r : Ramp)
    (step : Nat) : (r.moveCircuit step cs c).Sound cs := by
  have lev : ∀ cl ∈ c.claims.map (r.moveClaim step (rampLimit cs)), cl.level ≤ 1000 := by
    intro cl hcl
    obtain ⟨d, hd, rfl⟩ := List.mem_map.mp hcl
    unfold Ramp.moveClaim; split
    · exact rampLevel_le hc _ _ (h.claims d hd)
    · exact h.claims d hd
  unfold Ramp.moveCircuit; dsimp only
  cases hl : c.claims with
  | nil =>
    refine ⟨by simp, h.level, h.output, fun hn => ?_, fun f hf => ?_⟩
    · have := h.resting hn; simpa [Circuit.target, hl] using this
    · obtain ⟨a, b⟩ := h.fading f hf; exact ⟨by simpa [Circuit.target, hl] using a, b⟩
  | cons a l =>
    rw [hl] at lev
    simp only [List.map_cons] at lev ⊢
    split
    · next he =>
      refine ⟨lev, h.level, h.output, fun hn => ?_, fun f hf => ?_⟩
      · have := h.resting hn; simp only [Circuit.target, hl] at this ⊢; omega
      · obtain ⟨x, y⟩ := h.fading f hf; simp only [Circuit.target, hl] at x ⊢; exact ⟨by omega, y⟩
    · exact ⟨lev, lev _ List.mem_cons_self, h.output, fun _ => rfl, fun f hf => by simp at hf⟩

/-! ## Relays -/

theorem Relay.Sound.apply (cs cs' : CircuitSettings) (locked : Bool) (b : Bool) : (Relay.apply cs b).Sound cs' locked :=
  ⟨fun _ h => by simp [Relay.apply] at h, fun _ h => by simp [Relay.apply] at h⟩

theorem Relay.Sound.placed {cs : CircuitSettings} {locked b : Bool} {r : Relay} (hb : b ≠ r.state)
    (hd : r.dwellRunning = false) : (r.afterDwell cs locked b).Sound cs locked := by
  unfold Relay.afterDwell; split
  · next h =>
    simp only [Bool.and_eq_true] at h
    exact ⟨fun _ h => by simp at h, fun c e => by simp at e; subst e; exact ⟨hb, hd, h.1, h.2⟩⟩
  · exact Relay.Sound.apply _ _ _ _

/-- Handing a request on keeps a relay record sound (R158, R159). -/
theorem Relay.Sound.hand {cs : CircuitSettings} {locked : Bool} {r : Relay} (h : r.Sound cs locked) (b : Bool) :
    (r.hand cs locked b).Sound cs locked := by
  unfold Relay.hand; split
  · exact ⟨fun _ h => by simp at h, fun _ h => by simp at h⟩
  · next hb =>
    split
    · next w hw =>
      refine ⟨fun c e => ?_, fun c e => by simp at e⟩
      simp at e; subst e
      exact ⟨hb, (h.afterDwell w hw).2⟩
    · next w hw =>
      refine ⟨fun c e => by simp at e, fun c e => ?_⟩
      simp at e; subst e
      exact ⟨hb, (h.atCrossing w hw).2⟩
    · split
      · next hd =>
        refine ⟨fun c e => ?_, fun c e => by simp at e⟩
        simp at e; subst e
        exact ⟨hb, hd⟩
      · next hd => exact Relay.Sound.placed hb (by simpa using hd)

/-- The end of a running dwell keeps a relay record sound (R160); what waits for a crossing waits with the dwell over, so
align may be changing (R163). -/
theorem Relay.Sound.endDwell {old cs : CircuitSettings} {locked : Bool} {r : Relay} (h : r.Sound old locked)
    (hd : r.dwellRunning = true) : (r.endDwell cs locked).Sound cs locked := by
  unfold Relay.endDwell; dsimp only; split
  · next b hw => exact Relay.Sound.placed (h.afterDwell b hw).1 rfl
  · next hw => exact ⟨fun c e => by simp [hw] at e, fun c e => by simp [hw] at e⟩
  · next b hw => have := (h.atCrossing b hw).2.1; rw [hd] at this; simp at this

/-- A crossing leaves nothing waiting for it (R161). -/
theorem Relay.Sound.cross {old : CircuitSettings} {locked : Bool} {r : Relay} (h : r.Sound old locked)
    (cs cs' : CircuitSettings) (locked' : Bool) : (r.cross cs).Sound cs' locked' := by
  unfold Relay.cross; split
  · exact Relay.Sound.apply _ _ _ _
  · next hw => exact ⟨fun c e => by simp [hw] at e, fun c e => by simp [hw] at e⟩
  · next b hw => exact ⟨fun c e => h.afterDwell c e, fun c e => by simp [hw] at e⟩

/-- A rewritten dwell keeps a relay record sound under unchanged align (R163). -/
theorem Relay.Sound.newDwell {old cs : CircuitSettings} {locked : Bool} {r : Relay} (h : r.Sound old locked) :
    (r.newDwell cs locked).Sound { cs with align := cs.align || old.align } locked := by
  have weak : ∀ {q : Relay}, q.Sound cs locked → q.Sound { cs with align := cs.align || old.align } locked := fun hq =>
    ⟨hq.afterDwell, fun b hb => let ⟨x, y, z, w⟩ := hq.atCrossing b hb; ⟨x, y, by simp [z], w⟩⟩
  unfold Relay.newDwell; split
  · refine ⟨fun b e => ?_, fun b e => ?_⟩
    · dsimp only at e
      cases hw : r.waiting with
      | none => rw [hw] at e; simp at e
      | afterDwell c => rw [hw] at e; simp at e; subst e; exact ⟨(h.afterDwell c hw).1, rfl⟩
      | atCrossing c =>
        have := h.atCrossing c hw
        rw [hw, this.2.1] at e; simp at e; subst e
        exact ⟨this.1, rfl⟩
    · dsimp only at e
      cases hw : r.waiting with
      | none => rw [hw] at e; simp at e
      | afterDwell c => rw [hw] at e; simp at e
      | atCrossing c =>
        have := h.atCrossing c hw
        rw [hw, this.2.1] at e; simp at e
  · split
    · next hd => exact weak (Relay.Sound.endDwell h hd)
    · exact ⟨h.afterDwell, fun b hb => let ⟨x, y, z, w⟩ := h.atCrossing b hb; ⟨x, y, by simp [z], w⟩⟩

/-- A rewrite of a circuit's settings keeps its relay record sound and its request at OFF under another law (R118, R163). -/
theorem Circuit.rewrite_relay {old cs : CircuitSettings} {locked : Bool} {c : Circuit} (h : c.relay.Sound old locked)
    (hq : old.law ≠ .switched → c.request = false) :
    (c.rewrite old cs locked).relay.Sound cs locked ∧ (cs.law ≠ .switched → (c.rewrite old cs locked).request = false) := by
  have rel : ∀ d : Circuit, d.relay = c.relay →
      (let r := if old.minimumDwell = cs.minimumDwell then d.relay else d.relay.newDwell cs locked
       if old.align && !cs.align then r.cross cs else r).Sound cs locked := by
    intro d hd
    rw [hd]; dsimp only
    have h1 : (if old.minimumDwell = cs.minimumDwell then c.relay else c.relay.newDwell cs locked).Sound
        { cs with align := cs.align || old.align } locked := by
      split
      · exact ⟨h.afterDwell, fun b hb => let ⟨x, y, z, w⟩ := h.atCrossing b hb; ⟨x, y, by simp [z], w⟩⟩
      · exact Relay.Sound.newDwell h
    split
    · exact Relay.Sound.cross h1 _ _ _
    · next ha =>
      refine ⟨h1.afterDwell, fun b hb => ?_⟩
      obtain ⟨x, y, z, w⟩ := h1.atCrossing b hb
      refine ⟨x, y, ?_, w⟩
      cases h2 : cs.align <;> cases h3 : old.align <;> simp_all
  unfold Circuit.rewrite; dsimp only
  have h0 : (if c.claims = [] ∧ old.rest ≠ cs.rest then c.headFor cs.rest cs.defaultFade else c).relay = c.relay := by
    split <;> simp
  have h00 : (if c.claims = [] ∧ old.rest ≠ cs.rest then c.headFor cs.rest cs.defaultFade else c).request = c.request := by
    split <;> simp
  have h1 := rel _ h0
  dsimp only at h1
  cases ho : old.law <;> cases hn : cs.law <;> simp only [ho, hn] at * <;>
    refine ⟨?_, fun hl => ?_⟩ <;> first
      | exact absurd rfl hl
      | exact h1
      | exact Relay.Sound.hand h1 _
      | rfl
      | (rw [h00]; exact hq (by simp))
      | simp_all

/-- A rewrite of a circuit's settings keeps its level sound (R117). -/
theorem Circuit.Sound.rewrite {old cs : CircuitSettings} {c : Circuit} (h : c.Sound old) (hr : cs.rest ≤ 1000)
    (locked : Bool) : (c.rewrite old cs locked).Sound cs := by
  have h1 : (if c.claims = [] ∧ old.rest ≠ cs.rest then c.headFor cs.rest cs.defaultFade else c).Sound cs := by
    split
    · next he =>
      have ht : c.target cs = cs.rest := by simp [Circuit.target, he.1]
      have := Circuit.Sound.headFor (cs := cs) (c := c) cs.defaultFade (by rw [ht]; exact hr) h.level h.output h.claims
        fun f hf => (h.fading f hf).2
      rwa [ht] at this
    · next hn =>
      have ht : c.target cs = c.target old := by
        unfold Circuit.target; split
        · next he => simp [he] at hn; exact hn.symm
        · rfl
      exact ⟨h.claims, h.level, h.output, fun hf => by rw [ht]; exact h.resting hf, fun f hf => by
        rw [ht]; exact h.fading f hf⟩
  unfold Circuit.rewrite; dsimp only
  generalize (if c.claims = [] ∧ old.rest ≠ cs.rest then c.headFor cs.rest cs.defaultFade else c) = d at h1 ⊢
  split <;> exact ⟨h1.claims, h1.level, h1.output, h1.resting, h1.fading⟩

end Sys2Proof.Machine
end

