-- ==== Sys2Proof/Laws/Reports.lean ====
section
/-! SUPPORT. The reports of a request in hand wait for its reply, whatever comes between two bindings of a dispatch that it makes
(R179, R180). -/

namespace Sys2Proof.Machine

variable {src : Source} {s t u : State}

theorem OwnReportsWait.same (ha : t.ahead = s.ahead) (hr : t.reports = s.reports) : OwnReportsWait s t :=
  fun k hk _ => ⟨0, Nat.zero_le k, [], by simp [ha, hk], by simp [hr]⟩

theorem OwnReportsWait.refl (s : State) : OwnReportsWait s s := .same rfl rfl

theorem OwnReportsWait.trans (h : OwnReportsWait s t) (k : OwnReportsWait t u) : OwnReportsWait s u := by
  intro n hn hl
  obtain ⟨j, hj, new, ha, hr⟩ := h n hn hl
  obtain ⟨i, hi, more, ha', hr'⟩ := k _ ha (by rw [hr, List.length_append, List.length_drop]; omega)
  refine ⟨j + i, by omega, new.drop 0 ++ more, by rw [ha', Nat.sub_sub], ?_⟩
  rw [hr', hr, List.drop_append_of_le_length (by rw [List.length_drop]; omega), List.drop_drop, List.drop_zero,
    List.append_assoc]

/-! ## The pieces -/

theorem raise_wait (r : Report) (s : State) : OwnReportsWait s (raise r s) := by
  unfold raise; split
  · split
    · exact fun k hk _ => ⟨0, Nat.zero_le k, [r], hk, rfl⟩
    · exact .same rfl rfl
  · exact .refl s

theorem serve_wait (s : State) : OwnReportsWait s (serve s) := by
  rcases serve_cases s with ⟨_, _, e⟩ | ⟨_, _, _, e⟩ | ⟨r, rest, _, _, hr, h0, e⟩ | ⟨_, _, _, e⟩ <;> rw [e]
  · exact .refl s
  · exact .same rfl rfl
  · intro k hk _
    refine ⟨1, ?_, [], by simp [hk], by simp [hr]⟩
    rcases k with - | k
    · exact absurd hk h0
    · omega
  · exact .refl s

theorem enterZone_wait (z : ZoneId) (n : ZoneStateName) (s : State) : OwnReportsWait s (enterZone z n s) := by
  unfold enterZone; dsimp only
  refine .trans ?_ (raise_wait _ _)
  split <;> exact .same rfl rfl

theorem reevaluate_wait (z : ZoneId) (s : State) : OwnReportsWait s (reevaluate z s) := by
  unfold reevaluate; split
  all_goals first | exact enterZone_wait _ _ s | exact .refl s

theorem reevaluateWhere_wait (p : ZoneId → Bool) (s : State) : OwnReportsWait s (reevaluateWhere p s) :=
  foldl_frame OwnReportsWait.refl OwnReportsWait.trans (fun s z => by
    split
    · exact reevaluate_wait z s
    · exact .refl s) _ s

theorem changeMains_wait (m : Mains) (s : State) : OwnReportsWait s (changeMains m s) := by
  have told : ∀ v : State, OwnReportsWait v (if s.mains.state = m.state then v else raise (.mains m.state m.lastInterval) v) :=
    fun v => by
      split
      · exact .refl v
      · exact raise_wait _ v
  have zones : ∀ v : State, OwnReportsWait v (if s.mains.state = .locked ↔ m.state = .locked then v
      else reevaluateWhere (masks v mainsBit) v) := fun v => by
    split
    · exact .refl v
    · exact reevaluateWhere_wait _ v
  unfold changeMains; dsimp only
  refine .trans (.trans ?_ (told _)) (zones _)
  split <;> exact .same rfl rfl

theorem crossMains_wait (moment : Nat) (s : State) : OwnReportsWait s (crossMains moment s) := by
  have expired : OwnReportsWait s (if silentBefore moment s.mains then expireMains s else s) := by
    split
    · exact changeMains_wait _ s
    · exact .refl s
  have crossed : ∀ v : State, OwnReportsWait v (if mainsLocked v then applyCrossings v else v) := fun v => by
    split
    · exact .same rfl rfl
    · exact .refl v
  exact expired.trans ((crossed _).trans (changeMains_wait _ _))

theorem setSilence_wait (t : SilenceTimer) (s : State) : OwnReportsWait s (setSilence t s) := by
  unfold setSilence; dsimp only; split
  · exact .same rfl rfl
  · refine .trans ?_ (reevaluateWhere_wait _ _)
    exact .same rfl rfl

theorem receiveEntry_wait (e : Entry) (s : State) : OwnReportsWait s (receiveEntry e s) := by
  have queued : ∀ v : State, OwnReportsWait v (enqueue e v) := fun v => by
    unfold enqueue; split
    · exact .same rfl rfl
    · exact .refl v
  unfold receiveEntry; split
  · exact (setSilence_wait _ s).trans (queued _)
  · exact queued s

theorem takeCharacter_wait (c : Byte) (e : Bool) (s : State) : OwnReportsWait s (takeCharacter c e s) := by
  have framed : ∀ f : Framer, OwnReportsWait s { s with framer := f } := fun f => .same rfl rfl
  unfold takeCharacter; split
  · exact framed _
  · unfold goodCharacter; split
    · split
      · exact framed _
      · exact .refl s
    · split <;> exact framed _
    · split
      · exact framed _
      · exact (framed _).trans (receiveEntry_wait _ _)

theorem levelTick_wait (s : State) : OwnReportsWait s (levelTick s) := by
  rw [levelTick_frame]; exact .same rfl rfl

theorem enterStation_wait (a : StationId) (v : StationState) (s : State) : OwnReportsWait s (enterStation a v s) := by
  unfold enterStation; split
  · exact .same rfl rfl
  · refine .trans ?_ (raise_wait _ _)
    exact .same rfl rfl

theorem deferredTransition_wait (a : StationId) (s : State) :
    OwnReportsWait s (deferredTransitionBy releaseNothing a s) := by
  unfold deferredTransitionBy restartStationBy
  simp only [releaseStationBy_nothing, ite_self, id]
  exact (enterStation_wait _ _ _).trans (reevaluateWhere_wait _ _)

theorem failTurn_wait (t : Turn) (bad : Bool) (s : State) : OwnReportsWait s (failTurnBy releaseNothing t bad s) := by
  have counted : OwnReportsWait s (countFailure t.address bad s) := .same rfl rfl
  unfold failTurnBy endTurn; dsimp only
  refine .trans ?_ (.same rfl rfl)
  split
  · exact counted.trans (deferredTransition_wait _ _)
  · split
    · exact counted
    · split
      · unfold goMissingBy
        simp only [releaseStationBy_nothing]
        exact counted.trans ((enterStation_wait _ _ _).trans (reevaluate_wait _ _))
      · exact counted.trans (.same rfl rfl)

theorem identTurn_wait (t : Turn) (code : Byte) (n : Nat) (s : State) :
    OwnReportsWait s (identTurnBy releaseNothing t code n s) := by
  unfold identTurnBy endTurn; dsimp only
  refine .trans ?_ (.same rfl rfl)
  split
  · exact deferredTransition_wait _ _
  · exact (enterStation_wait _ _ _).trans (reevaluate_wait _ _)

/-! ## A command that comes, and all that comes -/

theorem event_wait {f : State → State} (h : OwnReportsWait s (f s)) : Gives (OwnReportsWait s) (event f s) :=
  event_gives (fun _ h => h.trans (serve_wait _)) (.refl s) fun _ => h

theorem eventIf_wait {p : State → Bool} {f : State → State} (h : OwnReportsWait s (f s)) :
    Gives (OwnReportsWait s) (eventIf p f s) :=
  eventIf_gives (fun _ h => h.trans (serve_wait _)) (.refl s) fun _ _ => h

/-- No command that comes while a request is being carried out lets one of the request's reports go (R179). -/
theorem execBetween_wait (hc : s.carrying = true) (c : Instr) : Gives (OwnReportsWait s) (execBetween src c s) := by
  have held : linkFree s = false := by simp [linkFree, hc]
  have stays : Gives (OwnReportsWait s) (waits s) := Gives.next (.refl s)
  have given : ∀ {p : State → Bool} {f : State → State} {b : Bool}, OwnReportsWait s (f s) →
      Gives (OwnReportsWait s) (if b = true then eventIf p f s else waits s) := fun h => by
    split
    · exact eventIf_wait h
    · exact stays
  have same : ∀ {f : State → State}, (f s).ahead = s.ahead → (f s).reports = s.reports →
      Gives (OwnReportsWait s) (event f s) ∧ ∀ p, Gives (OwnReportsWait s) (eventIf p f s) :=
    fun ha hr => ⟨event_wait (.same ha hr), fun _ => eventIf_wait (.same ha hr)⟩
  unfold execBetween comesIf samplerFree
  cases c <;> simp only [held, Bool.and_false, Bool.false_and, Bool.false_eq_true, if_false] <;> first
    | exact stays
    | skip
  case tick => exact event_wait (levelTick_wait s)
  case fadeEnd n => exact eventIf_wait (levelTick_wait s)
  case dwellEnd n => exact (same rfl rfl).2 _
  case zeroCrossing m => exact event_wait (crossMains_wait m s)
  case mainsLock m => exact eventIf_wait (crossMains_wait m s)
  case mainsSilenceExpiry => exact eventIf_wait (changeMains_wait _ s)
  case releaseTimerExpiry z => exact eventIf_wait (enterZone_wait z .free s)
  case characterReceived b e => exact event_wait (takeCharacter_wait b e s)
  case gapTimerExpiry => exact (same rfl rfl).2 _
  case silenceTimerExpiry => exact eventIf_wait (setSilence_wait _ s)
  case transmitFrameEnd => exact (same rfl rfl).2 _
  case saveEnd v =>
    refine eventIf_wait ?_
    unfold endSave
    refine .trans ?_ (raise_wait _ _)
    exact .same rfl rfl
  case replyWindowOpen => exact given (.same rfl rfl)
  case flash3OverrideEnd a b => exact given (.same rfl rfl)
  case identReply r =>
    unfold execIdentReplyBy
    refine given ?_
    split
    · exact identTurn_wait _ _ _ s
    · exact .refl s
  case badReply r =>
    unfold execBadReplyBy
    refine given ?_
    split
    · exact failTurn_wait _ _ s
    · exact .refl s
  case replyWindowClose =>
    unfold execReplyWindowCloseBy
    refine given ?_
    split
    · exact failTurn_wait _ _ s
    · exact .refl s
  case stationGoesMissing r =>
    unfold execStationGoesMissingBy
    refine given ?_
    split
    · exact failTurn_wait _ _ s
    · exact .refl s

theorem comes_wait (hc : s.carrying = true) (c : Instr) : OwnReportsWait s (comes src s c) := by
  unfold comes; split
  · next h => exact execBetween_wait hc c _ h
  all_goals exact .refl s

/-- Whatever comes before a later binding of a dispatch that a request makes, the reports that the request has raised stay in the
queue, behind those that stood ahead of them (R179, R180). -/
theorem betweenBindings_wait (hc : s.carrying = true) : OwnReportsWait s (betweenBindings src s) := by
  have key : ∀ (l : List Instr) (v : State), v.carrying = true → OwnReportsWait v (l.foldl (comes src) v) := by
    intro l
    induction l with
    | nil => exact fun v _ => .refl v
    | cons c l ih =>
      exact fun v hv => (comes_wait hv c).trans (ih _ ((comes_frame (src := src) c).carrying.trans hv))
  intro k hk hl
  have hf : freeReports { s with draws := s.draws + 1 } = { s with draws := s.draws + 1 } := by
    unfold freeReports
    exact if_neg fun e => by rw [show s.ahead = some s.reports.length from e] at hk; cases hk; omega
  have h := key (Config.comesBetween s.draws) { s with draws := s.draws + 1 } hc
  obtain ⟨j, hj, new, ha, hr⟩ := h k hk hl
  unfold betweenBindings
  rw [hf]
  refine ⟨j, hj, new, ?_⟩
  unfold holdReports
  rw [if_neg (by rw [ha]; exact fun e => by cases e.2)]
  exact ⟨ha, hr⟩

end Sys2Proof.Machine
end

