-- ==== Sys2Proof/Laws/Requests.lean ====
section
/-! SUPPORT. A property that the blocks, the requests and the starts keep is kept by every command and every step. -/

namespace Sys2Proof.Machine

/-- A property that everything a command is made of keeps. -/
structure KeptByCommands (P : State → Prop) : Prop extends KeptByEvents P where
  writeInput : ∀ i cs s, P s → cs.ok i = true → inputDenied i cs s = false → P (writeInput i cs s)
  writeLadder : ∀ ch cs s, P s → cs.ok = true → P (writeLadder ch cs s)
  writeStation : ∀ a cs s, P s → cs.ok = true → P (writeStation a cs s)
  clearBinding : ∀ b s, P s → P (writeBinding b none s)
  writeBinding : ∀ b x s, P s → x.action.ok = true → (x.cls = .egress → egressAllowed x.source s = true) →
    P (writeBinding b (some x) s)
  restart : ∀ s, P s → P (warmRestart s)
  powerUp : ∀ s, P s → P (powerUp s)
  resetByLine : ∀ s, P s → P (resetByLine s)
  heldInReset : ∀ s, P s → P (holdInReset s)
  unpowered : ∀ s, P s → P (losePower s)

variable {P : State → Prop}

/-! ## What the requests carry out -/

theorem carryPutInput_kept (K : KeptByCommands P) (p : List Byte) (s : State) (h : P s) : P (carryPutInput p s).state := by
  unfold carryPutInput
  split
  · exact h
  · split
    · exact h
    · split
      · exact h
      · next hp =>
        split
        · exact h
        · next hd => exact K.writeInput _ _ _ h (inputOf_ok hp) (by simpa using hd)

theorem carryPutBinding_kept (K : KeptByCommands P) (p : List Byte) (s : State) (h : P s) :
    P (carryPutBinding p s).state := by
  unfold carryPutBinding
  split
  · exact h
  · split
    · exact h
    · split
      · split
        · exact h
        · exact K.clearBinding _ _ h
      · split
        · exact h
        · next hp =>
          split
          · exact h
          · next hd =>
            exact K.writeBinding _ _ _ h (bindingOf_ok hp) fun he => by simpa [he] using hd

/-! ## Every command, every step -/

/-- A property that everything a command is made of keeps is kept by every command. -/
theorem exec_gives (K : KeptByCommands P) (c : Instr) (s : State) (h : P s) : Gives P (exec c s) := by
  cases hc : isPlain c with
  | true => exact exec_kept K.toKeptByEvents c hc s h
  | false =>
    have L := K.toKeptByLink
    cases c with
    | powerOn => exact Gives.next (K.powerUp s h)
    | resetLine =>
      show Gives P (execResetLine s)
      unfold execResetLine; split
      · exact Gives.next (K.resetByLine s h)
      · exact Gives.next (K.resetByLine s h)
      · exact Gives.next h
    | resetInputAsserted =>
      show Gives P (execResetInputAsserted s)
      unfold execResetInputAsserted
      exact whenRunning_gives h fun _ => K.heldInReset _ h
    | lossOfSupply =>
      show Gives P (execLossOfSupply s)
      unfold execLossOfSupply; split
      · exact Gives.next (K.unpowered s h)
      · exact Gives.next (K.unpowered s h)
      · exact Gives.next h
    | restart p =>
      refine request_gives L h fun s h => ?_
      unfold carryRestart; split
      · exact h
      · split
        · exact h
        · exact K.restart _ h
    | putInput p => exact request_gives L h fun s h => carryPutInput_kept K p s h
    | putLadder p =>
      refine request_gives L h fun s h => ?_
      unfold carryPutLadder; split
      · exact h
      · split
        · exact h
        · split
          · exact h
          · next hp => exact K.writeLadder _ _ _ h (ladderOf_ok hp)
    | putStation p =>
      refine request_gives L h fun s h => ?_
      unfold carryPutStation; split
      · exact h
      · split
        · exact h
        · split
          · exact h
          · next hp => exact K.writeStation _ _ _ h (stationOf_ok hp)
    | putBinding p => exact request_gives L h fun s h => carryPutBinding_kept K p s h
    | hello | status | cause | save | setFlags | force | release | setAnnunciator | recallRequest | drop |
      levelRequest | clear | dropRestart | queryCircuit | queryScene | queryZone | queryStation | queryInputs |
      putScene | putCircuit | putZone | putAnnunciator | putGeneral | getInput | getLadder | getStation | getBinding
      | getScene | getCircuit | getZone | getAnnunciator | getGeneral =>
      exact exec_comesAsItself K.toKeptByComings _ rfl s h
    | _ => simp [isPlain, requestOf] at hc

/-- A property that every command keeps, whatever waits behind it, is kept by every step. -/
theorem step_gives (K : KeptByCommands P) (queue : ∀ q s, P s → P { s with pending := q }) (s : State) (h : P s) :
    Gives P (step s) := by
  unfold step; split
  · exact Gives.next h
  · exact exec_gives K _ _ (queue _ _ h)

end Sys2Proof.Machine
end

