-- ==== Sys2Proof/Laws/Zones.lean ====
section
/-! SUPPORT. What re-evaluation does: it makes each zone concerned follow its conditions and leaves the others alone (R143,
R147). -/

namespace Sys2Proof.Machine

/-- One zone follows its conditions: HELD exactly while called, its timer running exactly in RELEASING. -/
structure FollowsAt (s : State) (z : ZoneId) : Prop where
  held : (s.zones.get z).state = .held ↔ called s z = true
  timer : (s.zones.get z).timer.isSome = decide ((s.zones.get z).state = .releasing)

/-- Whether a zone is called depends on its force and on what is not the zones' own (R142). -/
theorem called_congr {s t : State} {z : ZoneId} (h : OnlyZones s t) (hf : (t.zones.get z).force = (s.zones.get z).force) :
    called t z = called s z := by
  have ha : activeMasked t z = activeMasked s z := by
    unfold OnlyZones at h
    generalize t.zones = a, t.ramps = b, t.reports = c, t.lost = d at h
    subst h
    rfl
  unfold called
  rw [ha, hf]

/-- A zone's state after it is entered: the state and its timer, force as before; other zones as before (R143, R147). -/
theorem enterZone_zones (z : ZoneId) (n : ZoneStateName) (s : State) :
    (enterZone z n s).zones = s.zones.set z
      { state := n, force := (s.zones.get z).force, timer := releaseTimer (s.settings.zones.get z) n } := by
  unfold enterZone; dsimp only
  rw [raise_zones]
  split <;> rfl

/-- The LOCAL ramps of a zone that is entered into HELD end; every other ramp stays (R149). -/
theorem enterZone_ramps (z : ZoneId) (n : ZoneStateName) (s : State) :
    (enterZone z n s).ramps =
      if n = .held then s.ramps.filter fun r => !(decide (r.cls = .loc) && decide (r.zone = z)) else s.ramps := by
  unfold enterZone; dsimp only
  rw [raise_ramps]
  split <;> rfl

theorem enterZone_called (z : ZoneId) (n : ZoneStateName) (s : State) (y : ZoneId) :
    called (enterZone z n s) y = called s y := by
  refine called_congr (enterZone_frame z n s) ?_
  rw [enterZone_zones, Table.get_set]; split
  · next h => rw [h]
  · rfl

theorem releaseTimer_isSome (zs : ZoneSettings) (n : ZoneStateName) :
    (releaseTimer zs n).isSome = decide (n = .releasing) := by cases n <;> rfl

/-- A zone entered into HELD if called, and out of HELD if not, follows its conditions; the others stay as they were. -/
theorem FollowsAt.enter {s : State} {z : ZoneId} {n : ZoneStateName} (hn : n = .held ↔ called s z = true) {y : ZoneId}
    (h : y ≠ z → FollowsAt s y) : FollowsAt (enterZone z n s) y := by
  by_cases hy : y = z
  · subst hy
    refine ⟨?_, ?_⟩
    · rw [enterZone_called, enterZone_zones, Table.get_set_self]; exact hn
    · rw [enterZone_zones, Table.get_set_self]; exact releaseTimer_isSome _ _
  · refine ⟨?_, ?_⟩
    · rw [enterZone_called, enterZone_zones, Table.get_set_ne _ _ (Ne.symm hy)]; exact (h hy).held
    · rw [enterZone_zones, Table.get_set_ne _ _ (Ne.symm hy)]; exact (h hy).timer

theorem leaveHeld_ne_held (zs : ZoneSettings) : leaveHeld zs ≠ .held := by
  unfold leaveHeld; split
  · simp
  · split <;> simp

/-- Re-evaluation makes a zone whose timer follows its state follow its conditions, and leaves the others (R143). -/
theorem FollowsAt.reevaluate {s : State} {z : ZoneId}
    (ht : (s.zones.get z).timer.isSome = decide ((s.zones.get z).state = .releasing)) {y : ZoneId}
    (h : y ≠ z → FollowsAt s y) : FollowsAt (reevaluate z s) y := by
  unfold Machine.reevaluate
  have same : (∀ w, w = z → ((s.zones.get z).state = .held ↔ called s z = true)) → FollowsAt s y := fun hh => by
    by_cases hy : y = z
    · subst hy; exact ⟨hh y rfl, ht⟩
    · exact h hy
  split
  · next hc => exact FollowsAt.enter (by simp [leaveHeld_ne_held, hc]) h
  · next hs hc => exact same fun _ _ => by rw [hs, hc]; simp
  · next hc => exact FollowsAt.enter (by simp [hc]) h
  · next hc => exact FollowsAt.enter (by simp [hc]) h
  · next hc => exact FollowsAt.enter (by simp [hc]) h
  · next hs hc => exact same fun _ _ => by rw [hs, hc]; simp
  · next hs hc => exact same fun _ _ => by rw [hs, hc]; simp
  · next hs hc => exact same fun _ _ => by rw [hs, hc]; simp

/-- Whether a zone is called is not changed by re-evaluating any zone (R142, R143). -/
theorem reevaluate_called (z : ZoneId) (s : State) (y : ZoneId) : called (reevaluate z s) y = called s y := by
  unfold reevaluate
  split <;> first | exact enterZone_called _ _ _ _ | rfl

/-- Re-evaluating the zones concerned makes every zone follow its conditions, where the zones not concerned did and every
timer follows its state (R143). -/
theorem FollowsAt.reevaluateWhere {s : State} {p : ZoneId → Bool} (hp : ∀ z, p z = false → FollowsAt s z)
    (ht : ∀ z, (s.zones.get z).timer.isSome = decide ((s.zones.get z).state = .releasing)) (z : ZoneId) :
    FollowsAt (reevaluateWhere p s) z := by
  unfold Machine.reevaluateWhere
  have key : ∀ (l : List ZoneId) (s : State),
      (∀ z, (s.zones.get z).timer.isSome = decide ((s.zones.get z).state = .releasing)) →
      (∀ z, z ∉ l → FollowsAt s z) → (∀ z, p z = false → FollowsAt s z) →
      FollowsAt (l.foldl (fun s z => if p z then Machine.reevaluate z s else s) s) z := by
    intro l
    induction l with
    | nil => intro s _ hl _; exact hl z (by simp)
    | cons a l ih =>
      intro s ht hl hp
      rw [List.foldl_cons]
      by_cases ha : p a = true
      · rw [if_pos ha]
        refine ih _ (fun y => ?_) (fun y hy => ?_) (fun y hy => ?_)
        · by_cases hya : y = a
          · subst hya
            exact (FollowsAt.reevaluate (y := y) (ht y) (fun h => absurd rfl h)).timer
          · have hz : (Machine.reevaluate a s).zones.get y = s.zones.get y := by
              unfold Machine.reevaluate
              split <;> first | rw [enterZone_zones, Table.get_set_ne _ _ (Ne.symm hya)] | rfl
            rw [hz]; exact ht y
        · exact FollowsAt.reevaluate (ht a) fun hya => hl y (by simp [hya, hy])
        · exact FollowsAt.reevaluate (ht a) fun _ => hp y hy
      · rw [if_neg ha]
        refine ih _ ht (fun y hy => ?_) hp
        by_cases hya : y = a
        · subst hya; exact hp y (by simpa using ha)
        · exact hl y (by simp [hya, hy])
  exact key _ _ ht (fun z hz => absurd (List.mem_finRange z) hz) hp

end Sys2Proof.Machine
end

