-- ==== Sys2Proof/Tests/Slice0.lean ====
section
/-! SUPPORT. The model's own tests: the checks of WellFormed refuse what they should, each command does what a worked
example or a rule of the manual gives on a small state, and each statement's hypotheses are met by a concrete state. -/

namespace Sys2Proof.Tests

open Sys2Proof.Machine

set_option Elab.async false

/-- The state after one command. -/
def after (c : Instr) (s : State) : State :=
  match exec c s with
  | .next t => t
  | .fault _ | .refused _ => s

/-- The part after reset with one request at the head of its queue. -/
def headed (k : Byte) (p : List Byte) : State := { State.reset with requests := [.request k p] }

/-- The status and results of the reply being sent, after a request has been taken. -/
def answer (s : State) : List Byte :=
  match s.sending with
  | some (.reply f) => f.payload
  | some (.report _) | none => []

/-! ## WellFormed refuses -/

theorem test_wf_long_payload : (Instr.hello (List.replicate 241 0)).wf = false := by decide +kernel
theorem test_wf_high_reading : (Instr.ladderSample 0 1024).wf = false := by decide
theorem test_wf_state_reply_data : (Instr.stateReply ⟨1, 0x81, [0, 0], 0⟩).wf = false := by decide
theorem test_wf_state_reply_kind : (Instr.stateReply ⟨1, 0x82, [1, 1], 0⟩).wf = false := by decide
theorem test_wf_ident_reply_data : (Instr.identReply ⟨1, 0x82, [1], 0⟩).wf = false := by decide
theorem test_wf_ident_reply_kind : (Instr.identReply ⟨1, 0x81, [1], 0⟩).wf = false := by decide
theorem test_wf_bad_reply_data : (Instr.badReply ⟨1, 0x81, [], 0⟩).wf = false := by decide
theorem test_wf_missing_reply_data : (Instr.stationGoesMissing (some ⟨1, 0x82, [], 0⟩)).wf = false := by decide
theorem test_wf_known_unknown_kind : (Instr.unknownKind 0x01 []).wf = false := by decide
theorem test_wf_accepts : (Instr.unknownKind 0x04 []).wf = true ∧ (Instr.ladderSample 7 1023).wf = true := by decide
theorem test_no_word_spells_a_command : decodeTableWord 8 0xC3 = none := rfl

/-! ## Starts and stops -/

theorem test_power_on_of_a_blank_part : after .powerOn State.reset = State.reset := by decide +kernel

/-- R196's table: a reset line keeps POWER_ON and sets RESET_LINE and, with an invalid image, STORE_EMPTY. -/
theorem test_reset_line_causes : (after .resetLine { State.reset with causes := ResetCauses.clear }).causes =
    { powerOn := false, resetLine := true, restart := false, storeEmpty := true } := by decide +kernel

/-- R135: a rest level above 0 is headed for with the default fade, 5 ticks a tenth. -/
def resting : Settings :=
  { Settings.defaults with
    circuits := Settings.defaults.circuits.set 0 { CircuitSettings.defaults with rest := 300, defaultFade := 20 } }

theorem test_reset_line_heads_for_rest : ((after .resetLine { State.reset with image := some resting }).circuits.get 0).fade
    = some { start := 0, target := 300, steps := 100, count := 0 } := by decide +kernel

theorem test_held_in_reset : (after .resetInputAsserted { State.reset with saving := true }).saving = false := by
  decide +kernel
theorem test_supply_lost : (after .lossOfSupply { State.reset with image := some resting }).image = some resting := by
  decide +kernel

/-! ## Contact inputs: the bouncing switch leg of section 1.2 -/

/-- Input 1 settled at OPEN, with the pending change given. -/
def settledInput (pending : Option Nat) : State :=
  State.reset.setInput 0 { filtered := .opened, pending := pending, conditioning := .running }

theorem test_sample_counts : (after (.contactSample 0 .closed) (settledInput (some 1))).inputs.get 0 =
    { filtered := .opened, pending := some 2, conditioning := .running } := by decide
theorem test_bounce_discards : (after (.contactSample 0 .opened) (settledInput (some 2))).inputs.get 0 =
    { filtered := .opened, pending := none, conditioning := .running } := by decide

/-- Sample 13 of the example: the eighth CLOSED sample is the press. -/
theorem test_change_accepted : ((after (.changeAccepted 0 .closed) (settledInput (some 7))).tracker (.contact 0)) =
    { state := .down, kind := some .momentary, timer := some 700, holdTime := some 7, suppression := [] } := by
  decide +kernel
theorem test_change_accepted_level : ((after (.changeAccepted 0 .closed) (settledInput (some 7))).inputs.get 0).filtered
    = .closed := by decide +kernel

def settling (asserts : Bool) : State :=
  { State.reset.setInput 0 { filtered := .opened, pending := none, conditioning := .settling (some (.closed, 7)) asserts } with
    settings := { Settings.defaults with
      inputs := Settings.defaults.inputs.set 0 { InputSettings.defaults with assertAtStart := asserts } } }

/-- R6's table: settled at the press level, a baseline without assert-at-start and a press with it. -/
theorem test_settles_to_a_baseline : (after (.settlingComplete 0 .closed) (settling false)).tracker (.contact 0) =
    Tracker.latent := by decide +kernel
theorem test_settles_to_a_press : ((after (.settlingComplete 0 .closed) (settling true)).tracker (.contact 0)).state =
    .down := by decide +kernel

/-! ## Ladder channels: the decoding example of section 1.7 -/

/-- Channel 2, NORMAL, as the example has it at a sample. -/
def channel2 (decode : Nat) (candidate : Option Nat) (run indeterminate : Nat) (baseline : Bool) : State :=
  State.reset.setLadder 1
    { state := .normal, decode := decode, candidate := candidate, candidateRun := run, indeterminateRun := indeterminate,
      baselinePending := baseline, recoveryRun := 0 }

def faulty (run : Nat) : State := State.reset.setLadder 1 { LadderState.off with state := .fault, recoveryRun := run }

/-- Sample 5: window 3 after window 2 starts a run of its own. -/
theorem test_ladder_sample : ((after (.ladderSample 1 370) (channel2 0 (some 2) 1 0 false)).ladders.get 1).candidateRun = 1 :=
  by decide
/-- Sample 17: the change from button 3 to button 5 ends at button 5 pressed. -/
theorem test_ladder_decode_change :
    ((after (.ladderDecodeChange 1 670) (channel2 3 (some 5) 2 0 false)).ladders.get 1).decode = 5 ∧
    ((after (.ladderDecodeChange 1 670) (channel2 3 (some 5) 2 0 false)).tracker (.ladder 1 4)).state = .down := by
  decide +kernel
/-- Sample 3: the baseline is taken. -/
theorem test_ladder_baseline :
    ((after (.ladderBaseline 1 980) (channel2 0 (some 0) 2 0 true)).ladders.get 1).baselinePending = false := by
  decide +kernel
/-- Sample 117: the hundredth indeterminate reading. -/
theorem test_ladder_fault : ((after (.ladderFaultEntry 1 0) (channel2 5 none 0 99 false)).ladders.get 1).state = .fault := by
  decide +kernel
theorem test_ladder_recovery : ((after (.ladderRecovery 1 980) (faulty 2)).ladders.get 1).state = .normal := by
  decide +kernel

/-! ## Stations -/

/-- A turn with station 1, with the window open. -/
def turning (request : BusRequest) : Turn := { address := 0, request := request, window := some 4, deferred := false }

/-- Station 1 enabled, in a state, with a record, in a turn. -/
def stationed (st : StationState) (request : BusRequest) : State :=
  { State.reset with
    settings := { Settings.defaults with
      stations := Settings.defaults.stations.set 0 { StationSettings.defaults with enabled := true } }
    stations := State.reset.stations.set 0 st
    turn := some (turning request) }

/-- An ACTIVE station with four buttons. -/
def active (map : Byte) (misses : Nat) (baseline : Bool) : StationState :=
  { StationState.started .active with
    keyMap := map, baselinePending := baseline, misses := misses, reportedType := 1, reportedButtons := 4 }

def dark : BusRequest := .poll (Table.replicate 8 .off)

theorem test_reply_window_opens : (after .replyWindowOpen
    { State.reset with turn := some { turning .ident with window := none } }).turn = some (turning .ident) := by decide
/-- R27: the expected type code makes the station ACTIVE with its baseline pending. -/
theorem test_ident_reply : (after (.identReply ⟨1, 0x82, [1, 4], 0x86⟩)
    (stationed (StationState.started .identifying) .ident)).stations.get 0 = active 0 0 true := by decide +kernel
/-- R32: bit 0 gone to 1 is a press of button 1. -/
theorem test_state_reply_press : ((after (.stateReply ⟨1, 0x81, [0x01], 0x81⟩)
    (stationed (active 0 0 false) dark)).tracker (.station 0 0)).state = .down := by decide +kernel
/-- R31: the first map is a baseline. -/
theorem test_state_reply_baseline : (after (.stateReply ⟨1, 0x81, [0x01], 0x81⟩)
    (stationed (active 0 0 true) dark)).tracker (.station 0 0) = Tracker.latent := by decide +kernel
theorem test_bad_reply : ((after (.badReply ⟨1, 0x81, [0x01], 0x00⟩)
    (stationed (active 0 1 false) dark)).stations.get 0).badReplies = 1 := by decide +kernel
theorem test_window_closes : ((after .replyWindowClose
    (stationed (active 0 1 false) dark)).stations.get 0).misses = 2 := by decide +kernel
theorem test_station_missing : ((after (.stationGoesMissing none)
    (stationed (active 1 2 false) dark)).stations.get 0).state = .missing := by decide +kernel
theorem test_flash3_ends : ((after (.flash3OverrideEnd 0 0) (stationed { active 0 0 false with
    overrides := (Table.replicate 8 none).set 0 (some 20) } dark)).stations.get 0).overrides = Table.replicate 8 none := by
  decide +kernel

/-! ## Gestures and bindings -/

/-- Input 1's tracker in DOWN. -/
def pressed : State := State.reset.setTracker (.contact 0)
  { state := .down, kind := some .momentary, timer := some 0, holdTime := some 7, suppression := [] }

theorem test_hold_timer : ((after (.holdTimerExpiry (.contact 0)) pressed).tracker (.contact 0)).state = .held := by
  decide +kernel

/-- Slot 1: a press of input 1 holds zone 1. Slot 2: it places scene 1's LOCAL claim in zone 1. -/
def holdThenScene : Settings :=
  { Settings.defaults with
    bindings := (Settings.defaults.bindings.set 0 (some
        { source := .contact 0, trigger := .press, action := .holdForce 0, cls := .performance, zone := 0,
          enabled := true })).set 1 (some
        { source := .contact 0, trigger := .press, action := .sceneOn 0 none, cls := .loc, zone := 0, enabled := true })
    scenes := Settings.defaults.scenes.set 0
      { name := [], onFade := 0, offFade := 0, entries := [{ circuit := 0, level := 500 }] } }

/-- The dispatch of that press, with what comes between the two bindings. -/
def pressBetween (gap : State → State) : State :=
  dispatchWith gap (.contact 0) .press [] { State.reset with settings := holdThenScene }

/-- R64: the zone is read when the binding is reached, so the hold of slot 1 suppresses slot 2. -/
theorem test_hold_suppresses_later_slot : ((pressBetween id).circuits.get 0).claims = [] := by decide +kernel
/-- R67: one binding ran and one was suppressed. -/
theorem test_event_mixed : (pressBetween id).reports.getLast? = some (.event (.contact 0) .press .mixed) := by decide +kernel

/-! ## Claims -/

def lit (l : List Claim) (level : Nat) (fade : Option Fade) : State :=
  State.reset.setCircuit 0 { Circuit.started with claims := l, level := level, fade := fade }

def remote (cls : ClaimClass) (level : Nat) : Claim := { owner := .remote, cls := cls, level := level, zone := none }
def sceneClaim (sc : SceneId) (cls : ClaimClass) (level : Nat) : Claim :=
  { owner := .scene sc, cls := cls, level := level, zone := some 0 }

/-- Four claims above BASE. -/
def fullList : List Claim :=
  [sceneClaim 0 .egress 1, sceneClaim 1 .performance 2, sceneClaim 2 .performance 3, sceneClaim 3 .loc 4]

/-- R100: a BASE claim on four claims above BASE is refused; R108: LEVEL answers FULL. -/
theorem test_level_full : answer (after (.levelRequest [1, 0, 0xF4, 0x01, 0, 0])
    { lit fullList 1 none with requests := [.request 0x1A [1, 0, 0xF4, 0x01, 0, 0]] }) = [0x17] := by decide +kernel
/-- R100: a PERFORMANCE claim evicts the LOCAL one. -/
theorem test_level_evicts : ((after (.levelRequest [1, 2, 0xF4, 0x01, 0, 0])
    { lit fullList 1 none with requests := [.request 0x1A [1, 2, 0xF4, 0x01, 0, 0]] }).circuits.get 0).claims =
    [sceneClaim 0 .egress 1, remote .performance 500, sceneClaim 1 .performance 2, sceneClaim 2 .performance 3] := by
  decide +kernel
theorem test_clear : ((after (.clear [1, 2, 0, 0]) { lit [remote .performance 500] 500 none with
    requests := [.request 0x1B [1, 2, 0, 0]] }).circuits.get 0).claims = [] := by decide +kernel
theorem test_recall : ((after (.recallRequest [1, 2, 0, 0]) { headed 0x18 [1, 2, 0, 0] with
    settings := holdThenScene }).circuits.get 0).level = 500 := by decide +kernel
theorem test_recall_denied : answer (after (.recallRequest [1, 3, 0, 0]) (headed 0x18 [1, 3, 0, 0])) = [0x16] := by
  decide +kernel
theorem test_drop : ((after (.drop [1, 2, 0xFF, 0xFF]) { lit [sceneClaim 0 .performance 500] 500 none with
    requests := [.request 0x19 [1, 2, 0xFF, 0xFF]] }).circuits.get 0).fade =
    some { start := 500, target := 0, steps := 100, count := 0 } := by decide +kernel
theorem test_drop_restart : ((after (.dropRestart [0, 0]) { lit [restartClaim 500] 500 none with
    requests := [.request 0x1C [0, 0]] }).circuits.get 0).level = 0 := by decide +kernel

/-! ## Levels: the examples of chapter 7 -/

/-- The fade of section 7.2: 200 to 850 in 60 ticks. -/
def rising (k : Nat) : Fade := { start := 200, target := 850, steps := 60, count := k }

theorem test_fade_steps : (rising 0).levelAt 1 = 210 ∧ (rising 0).levelAt 2 = 221 ∧ (rising 0).levelAt 59 = 839 := by decide
theorem test_fade_back : ({ start := 525, target := 0, steps := 50, count := 0 } : Fade).levelAt 1 = 515 ∧
    ({ start := 525, target := 0, steps := 50, count := 0 } : Fade).levelAt 49 = 11 := by decide
theorem test_tick : ((after .tick (lit [remote .performance 850] 200 (some (rising 0)))).circuits.get 0).level = 210 := by
  decide +kernel
theorem test_fade_end : ((after (.fadeEnd 0) (lit [remote .performance 850] 839 (some (rising 59)))).circuits.get 0).level =
    850 := by decide +kernel
theorem test_square_output : squareOutput 525 = 70 ∧ squareOutput 839 = 179 ∧ squareOutput 50 = 1 := by decide
theorem test_linear_output : linearOutput 100 = 26 ∧ linearOutput 850 = 217 ∧ linearOutput 50 = 13 := by decide
/-- The switched circuit through its band, and the thresholds the other way round. -/
theorem test_switched_band :
    switchedRequest CircuitSettings.defaults 480 false = false ∧ switchedRequest CircuitSettings.defaults 504 false = true ∧
    switchedRequest CircuitSettings.defaults 470 true = true ∧ switchedRequest CircuitSettings.defaults 449 true = false ∧
    switchedRequest { CircuitSettings.defaults with onThreshold := 450, offThreshold := 500 } 456 false = true := by decide
/-- The ramp of section 7.3: rate 120 steps by 2, 2, 3. -/
def ramp120 : Ramp :=
  { binding := 39, scene := 11, cls := .loc, zone := 2, direction := .up, rate := 120, accumulator := 0 }
theorem test_ramp_steps : ramp120.step = 2 ∧ ramp120.advance.step = 2 ∧ ramp120.advance.advance.step = 3 := by decide

/-! ## Relays and the mains: the examples of chapter 9 -/

/-- Circuit 1's relay ON, a change to OFF waiting. -/
def relayed (dwell : Bool) (w : Waiting) : State :=
  State.reset.setCircuit 0
    { Circuit.started with relay := { state := true, dwellRunning := dwell, elapsed := 500, waiting := w } }

def lockedMains : Mains :=
  { state := .locked, previous := some 160000, lastInterval := 10000, lockCount := 16, silence := some 40 }

/-- At 500.0 ms the dwell ends with the tracker LOCKED. -/
theorem test_dwell_end_waits_for_crossing :
    ((after (.dwellEnd 0) { relayed true (.afterDwell false) with mains := lockedMains }).circuits.get 0).relay.waiting =
    .atCrossing false := by decide +kernel
/-- R160: at once with the tracker not LOCKED. -/
theorem test_dwell_end_applies : ((after (.dwellEnd 0) (relayed true (.afterDwell false))).circuits.get 0).relay.state =
    false := by decide +kernel
/-- At 181.2 ms after 170.4 an interval of 10,800 unlocks and applies the waiting change. -/
theorem test_crossing_unlocks : (after (.zeroCrossing 170800) { relayed false (.atCrossing false) with
    mains := lockedMains }).mains.state = .acquiring := by decide +kernel
theorem test_crossing_applies : ((after (.zeroCrossing 170800) { relayed false (.atCrossing false) with
    mains := lockedMains }).circuits.get 0).relay.state = false := by decide +kernel
/-- The sixteenth interval of 10,000 locks. -/
theorem test_mains_lock : (after (.mainsLock 160000) { State.reset with mains := { lockedMains with
    state := .acquiring, previous := some 150000, lockCount := 15 } }).mains = lockedMains := by decide +kernel
theorem test_mains_silence : (after .mainsSilenceExpiry { State.reset with mains := lockedMains }).mains =
    { state := .absent, previous := none, lastInterval := 10000, lockCount := 0, silence := none } := by decide +kernel

/-! ## Zones, flags, annunciators -/

/-- Zone 1 as given, its settings as given. -/
def zoned (zs : ZoneSettings) (z : Zone) : State :=
  { State.reset.setZone 0 z with
    settings := { Settings.defaults with zones := Settings.defaults.zones.set 0 zs } }

def zoneDelayed : ZoneSettings := { ZoneSettings.defaults with delay := 30, mask := 1 }

theorem test_force : ((after (.force [1]) (headed 0x11 [1])).zones.get 0) = { state := .held, force := true, timer := none } :=
  by decide +kernel
/-- R145: AUTO with a delay goes to RELEASING with the full delay. -/
theorem test_release : ((after (.release [1]) { zoned zoneDelayed ⟨.held, true, none⟩ with
    requests := [.request 0x12 [1]] }).zones.get 0) = { state := .releasing, force := false, timer := some 30000 } := by
  decide +kernel
/-- R146: a masked condition still calls the zone. -/
theorem test_release_still_held : answer (after (.release [1]) { zoned zoneDelayed ⟨.held, true, none⟩ with
    requests := [.request 0x12 [1]], flags := 1 }) = [0x01] := by decide +kernel
theorem test_release_timer : ((after (.releaseTimerExpiry 0) (zoned zoneDelayed ⟨.releasing, false, some 0⟩)).zones.get 0)
    = { state := .free, force := false, timer := none } := by decide +kernel
theorem test_set_flags : (after (.setFlags [0x03, 0x01]) { zoned zoneDelayed ⟨.free, false, none⟩ with
    requests := [.request 0x10 [0x03, 0x01]], flags := 0x06 }).flags = 0x05 := by decide +kernel
theorem test_set_flags_calls : ((after (.setFlags [0x03, 0x01]) { zoned zoneDelayed ⟨.free, false, none⟩ with
    requests := [.request 0x10 [0x03, 0x01]], flags := 0x06 }).zones.get 0).state = .held := by decide +kernel
theorem test_set_annunciator : (after (.setAnnunciator [0xA5]) (headed 0x13 [0xA5])).enables = 0xA5 := by decide +kernel

/-! ## The control link: the frames of section 10.9 -/

/-- A FORCE of zone 2 and its reply. -/
theorem test_force_frame : ({ kind := 0x11, payload := [2] } : Frame).bytes = [0xC3, 0x02, 0x11, 0x02, 0xEB] := by decide
theorem test_force_reply_frame : (replyFrame 0x11 (done [] State.reset)).bytes = [0xC3, 0x02, 0x91, 0x00, 0x6D] := by decide
theorem test_character : (after (.characterReceived 0xEB false)
    { State.reset with framer := .body 2 [0x11, 0x02] 20 }).requests = [.request 0x11 [2]] := by decide +kernel
theorem test_character_damaged : (after (.characterReceived 0xEC false)
    { State.reset with framer := .body 2 [0x11, 0x02] 20 }).requests = [.damaged] := by decide +kernel
theorem test_gap_timer : (after .gapTimerExpiry { State.reset with framer := .awaitLen 0 }).framer = .idle := by decide
theorem test_silence_timer : (after .silenceTimerExpiry { State.reset with silence := .running 0 }).silence = .expired := by
  decide +kernel
theorem test_transmit_end : (after .transmitFrameEnd { State.reset with
    sending := some (.report (.saved true)), replySlot := some ⟨0x91, [0]⟩, reports := [.saved false] }).sending =
    some (.reply ⟨0x91, [0]⟩) := by decide
theorem test_damaged : (after .damagedEntry { State.reset with requests := [.damaged] }).sending =
    some (.reply ⟨0x80, [0x10]⟩) := by decide
theorem test_unknown_kind : (after (.unknownKind 0x04 []) (headed 0x04 [])).sending =
    some (.reply ⟨0x80, [0x11, 0x04]⟩) := by decide

/-! ## Reads, queries, saves, the warm restart -/

theorem test_hello : (answer (after (.hello []) (headed 0x01 []))).take 3 = [0, 128, 0] := by decide
theorem test_status : answer (after (.status []) { headed 0x02 [] with lost := 7 }) = [0, 1, 0, 0, 0, 0, 7] := by
  decide +kernel
theorem test_cause : answer (after (.cause []) (headed 0x03 [])) = [0, 0x09] := by decide
theorem test_cause_clears : (after (.cause []) (headed 0x03 [])).causes = ResetCauses.clear := by decide
theorem test_save : (after (.save []) { headed 0x08 [] with image := some resting }).image = none := by decide +kernel
theorem test_save_end : (after (.saveEnd true) { State.reset with saving := true, settings := resting }).image =
    some resting := by decide +kernel
theorem test_restart : ((after (.restart []) { lit [remote .performance 850] 525 (some (rising 30)) with
    requests := [.request 0x09 []] }).circuits.get 0).claims = [restartClaim 525] := by decide +kernel
theorem test_restart_no_fade : ((after (.restart []) { lit [remote .performance 850] 525 (some (rising 30)) with
    requests := [.request 0x09 []] }).circuits.get 0).fade = none := by decide +kernel
/-- Level 525, target 850, 30 ticks to go, relay OFF, one claim. -/
theorem test_query_circuit : answer (after (.queryCircuit [1]) { lit [remote .performance 850] 525 (some (rising 30)) with
    requests := [.request 0x20 [1]] }) =
    [0, 0x0D, 0x02, 0x52, 0x03, 30, 0, 0, 1, 3, 0, 0, 0, 2, 0x52, 0x03, 0] := by decide +kernel
theorem test_query_scene : answer (after (.queryScene [1]) { lit [sceneClaim 0 .loc 500] 500 none with
    settings := holdThenScene, requests := [.request 0x21 [1]] }) = [0, 3] := by decide +kernel
theorem test_query_zone : answer (after (.queryZone [1]) { zoned zoneDelayed ⟨.held, true, none⟩ with
    flags := 1, requests := [.request 0x22 [1]] }) = [0, 1, 1, 1, 0, 1] := by decide +kernel
theorem test_query_station : answer (after (.queryStation [1, 1]) { stationed { active 0 0 false with
    badReplies := 258 } dark with requests := [.request 0x23 [1, 1]] }) = [0, 2, 1, 4, 2, 1, 0, 0] := by decide +kernel
theorem test_query_inputs : answer (after (.queryInputs [])
    { (channel2 5 none 0 0 false).setInput 9 ⟨.closed, none, .running⟩ with requests := [.request 0x24 []] }) =
    [0, 0, 2, 0, 0, 0, 0, 0, 5, 0, 0, 0, 0, 0, 0] := by decide +kernel

/-! ## The configuration -/

/-- Input 41 to function LADDER. -/
def toLadder : List Byte := [41, 1, 0, 0, 2, 1, 1, 0, 0, 7]

theorem test_put_input : ((after (.putInput toLadder) (headed 0x30 toLadder)).ladders.get 0) = LadderState.started := by
  decide +kernel
theorem test_put_input_range : answer (after (.putInput [40, 1, 0, 0, 2, 1, 1, 0, 0, 7])
    (headed 0x30 [40, 1, 0, 0, 2, 1, 1, 0, 0, 7])) = [0x14] := by decide +kernel
theorem test_get_input : answer (after (.getInput [48]) (headed 0x40 [48])) = [0, 48, 0, 0, 0, 2, 1, 1, 0, 0, 7] := by
  decide +kernel

def ladderPayload : List Byte := ladderBytes 0 { LadderSettings.defaults with homeZone := 3 }
theorem test_put_ladder : ((after (.putLadder ladderPayload) (headed 0x31 ladderPayload)).settings.ladders.get 0).homeZone =
    3 := by decide +kernel
theorem test_get_ladder : (answer (after (.getLadder [1]) (headed 0x41 [1]))).take 7 = [0, 1, 6, 0xAC, 0x03, 0xFF, 0x03] := by
  decide +kernel

/-- Station 1, enabled, button 1 showing zone 16. -/
def stationPayload : List Byte :=
  [1, 1, 1, 1, 7, 1, 3, 16, 0, 0, 0, 0, 0, 0, 0, 0, 0, 0, 0, 0, 0, 0]
theorem test_put_station : ((after (.putStation stationPayload) (headed 0x32 stationPayload)).stations.get 0).state =
    .identifying := by decide +kernel

/-- R40: a MISSING station that two writes in its own turn switch off and on again counts by its settings throughout. -/
def switched (payloads : List (List Byte)) : State :=
  payloads.foldl (fun s p => (after (.putStation p) { s with requests := [.request 0x32 p], replySlot := none }))
    (stationed (StationState.started .missing) .ident)

theorem test_station_missing_follows_enabled :
    stationMissing (switched [1 :: 0 :: stationPayload.drop 2]) 0 = false ∧
    stationMissing (switched [1 :: 0 :: stationPayload.drop 2, stationPayload]) 0 = true := by decide +kernel
theorem test_get_station : answer (after (.getStation [32]) (headed 0x42 [32])) =
    [0, 32, 0, 1, 1, 7, 1, 0, 0, 0, 0, 0, 0, 0, 0, 0, 0, 0, 0, 0, 0, 0, 0] := by decide +kernel

/-- Slot 512: a TAP of station 1 button 8 sets circuit 128 to 1000, LOCAL, zone 16, no fade. -/
def bindingPayload : List Byte := [0x00, 0x02, 3, 1, 8, 4, 4, 1, 16, 128, 0xE8, 0x03, 0xFF, 0xFF, 1]
theorem test_put_binding : (after (.putBinding bindingPayload) (headed 0x33 bindingPayload)).settings.bindings.get 511 =
    some { source := .station 0 7, trigger := .tap, action := .level 127 1000 none, cls := .loc, zone := 15,
           enabled := true } := by decide +kernel
theorem test_get_binding_empty : answer (after (.getBinding [1, 0]) (headed 0x43 [1, 0])) =
    0 :: 1 :: List.replicate 14 0 := by decide +kernel

/-- Scene 1, named "A", two entries out of order. -/
def scenePayload : List Byte :=
  [1, 1, 65, 0, 0, 0, 0, 0, 0, 0, 0, 0, 0, 0, 20, 0, 50, 0, 2, 128, 0xE8, 0x03, 1, 0, 0]
theorem test_put_scene : (after (.putScene scenePayload) (headed 0x34 scenePayload)).settings.scenes.get 0 =
    { name := [65], onFade := 20, offFade := 50,
      entries := [{ circuit := 0, level := 0 }, { circuit := 127, level := 1000 }] } := by decide +kernel
theorem test_get_scene : (answer (after (.getScene [1]) { headed 0x44 [1] with settings := holdThenScene })).drop 15 =
    [0, 0, 0, 0, 1, 1, 0xF4, 0x01, 1, 0] := by decide +kernel

def circuitPayload : List Byte := [128, 2, 0xE8, 0x03, 0, 0, 0, 0, 20, 0, 0xF4, 0x01, 0xC2, 0x01, 50, 1]
theorem test_put_circuit : ((after (.putCircuit circuitPayload) (headed 0x35 circuitPayload)).settings.circuits.get 127) =
    { CircuitSettings.defaults with law := .switched, minimumDwell := 50 } := by decide +kernel
theorem test_get_circuit : answer (after (.getCircuit [128]) (headed 0x45 [128])) =
    [0, 128, 0, 0xE8, 0x03, 0, 0, 0, 0, 20, 0, 0xF4, 0x01, 0xC2, 0x01, 5, 1] := by decide +kernel

/-- Zone 16 masking MAINS_UNLOCKED, MANUAL, delay 120: HELD at once, since the tracker is not LOCKED. -/
def zonePayload : List Byte := [16, 0, 0x08, 1, 120, 200, 0, 0, 0, 0, 0, 0, 0, 0, 0, 0, 0, 0, 0, 0]
theorem test_put_zone : ((after (.putZone zonePayload) (headed 0x36 zonePayload)).zones.get 15).state = .held := by
  decide +kernel
theorem test_get_zone : (answer (after (.getZone [16]) (headed 0x46 [16]))).take 9 = [0, 16, 0, 0, 0, 0, 200, 0, 0] := by
  decide +kernel
theorem test_put_annunciator : (after (.putAnnunciator [8, 1, 16]) (headed 0x37 [8, 1, 16])).settings.annunciators.get 7 =
    .zoneHeld 15 := by decide +kernel
theorem test_get_annunciator : answer (after (.getAnnunciator [8]) (headed 0x47 [8])) = [0, 8, 0, 0] := by decide +kernel
theorem test_put_general : (after (.putGeneral [1, 10, 0x7F, 1, 2]) (headed 0x38 [1, 10, 0x7F, 1, 2])).silence =
    .running 10000 := by decide +kernel
theorem test_get_general : answer (after (.getGeneral []) (headed 0x48 [])) = [0, 0, 0, 0x7F, 0, 0] := by decide +kernel

/-! ## Between the bindings of a dispatch -/

/-- R64, R85, R145: a RELEASE of zone 1 that comes between the two frees it again, and slot 2 runs. -/
theorem test_release_between : ((pressBetween fun v => comes (.contact 0) v (.release [1])).circuits.get 0).claims =
    [sceneClaim 0 .loc 500] := by decide +kernel
/-- R147, R148: so does the end of its release timer, after a RELEASE that left it RELEASING. -/
theorem test_timer_between : (comes (.contact 0) (zoned zoneDelayed ⟨.releasing, false, some 0⟩)
    (.releaseTimerExpiry 0)).zones.get 0 = ⟨.free, false, none⟩ := by decide +kernel
/-- R107: a tick that comes between two bindings steps the fades; a station of another source's dispatch goes missing. -/
theorem test_tick_between : ((comes (.contact 0) (lit [remote .performance 850] 200 (some (rising 0))) .tick).circuits.get 0).level
    = 210 := by decide +kernel
theorem test_missing_between : ((comes (.contact 0) (stationed (active 1 2 false) dark) (.stationGoesMissing none)).stations.get
    0).state = .missing := by decide +kernel
/-- R148: a PUT_ZONE that comes re-evaluates its zone at once. -/
theorem test_put_zone_between : ((comes (.contact 0) State.reset (.putZone zonePayload)).zones.get 15).state = .held := by
  decide +kernel
/-- A request in hand, with two reports waiting of which `n` stand ahead of its own. -/
def told (n : Nat) : State :=
  { (headed 0x34 []).taken with reports := [.saved true, .saved false], ahead := some n }

/-- R179, R180: of the reports that wait, the end of a frame starts one ahead of the request's own, and none of its own. -/
theorem test_own_reports_wait :
    (comes (.contact 0) { told 1 with sending := some (.report (.saved true)) } .transmitFrameEnd).reports = [.saved false] ∧
    (comes (.contact 0) { told 0 with sending := some (.report (.saved true)) } .transmitFrameEnd).reports =
      [.saved true, .saved false] := by decide +kernel
/-- R62: a PUT_BINDING waits for the dispatch's end; R176: a request waits while another is being carried out. -/
theorem test_put_binding_waits : (comes (.contact 0) State.reset (.putBinding bindingPayload)).settings.bindings.get 511 = none ∧
    (comes (.contact 0) (headed 0x34 []).taken (.force [1])).zones.get 0 = ⟨.free, false, none⟩ := by decide +kernel

/-! ## The statements' hypotheses are met

One theorem for each statement with hypotheses, and one conjunct for each of its cases. -/

theorem heads (k : Byte) (p : List Byte) : RequestHeads k p (headed k p) := ⟨rfl, rfl, rfl⟩

theorem witness_StepRunsFrontCommand :
    ({ State.reset with pending := [.tick, .tick] } : State).pending = .tick :: [.tick] ∧ State.reset.pending = [] := ⟨rfl, rfl⟩

theorem witness_StartsGiveEveryBlockItsStartValues : State.reset.power ≠ .unpowered ∧
    (after .resetInputAsserted State.reset).power ≠ .unpowered := by decide +kernel

theorem witness_StoppedPartTakesNoCommand : State.reset.power = .running ∧
    (after .resetInputAsserted State.reset).power ≠ .running ∧ (after .lossOfSupply State.reset).power = .unpowered ∧
    Instr.tick ≠ .powerOn ∧ Instr.tick ≠ .resetLine ∧ Instr.tick ≠ .lossOfSupply := by decide +kernel

/-- Input 1 settled at OPEN and its sample, at the last count before a change is accepted; the settling run at its last;
input 41 as a ladder input; the ladder channel INACTIVE, one sample short of stability, at a stable decode, one short of
FAULT and one short of recovery. -/
theorem witness_SamplesAreCounted :
    ((settledInput (some 6)).inputs.get 0).conditioning = .running ∧
    ((settledInput (some 6)).settings.inputs.get 0).function = .contact ∧ Contact.closed ≠ .opened ∧
    6 + 1 < NoiseWidth.ms8.samples ∧ ((settling true).inputs.get 0).conditioning = .settling (some (.closed, 7)) true ∧
    (if Contact.closed = Contact.opened then 7 + 1 else 1) < NoiseWidth.ms8.samples ∧
    (State.reset.inputs.get 0).conditioning = .settling none false ∧ 1 < NoiseWidth.ms8.samples ∧
    ((after (.putInput toLadder) (headed 0x30 toLadder)).settings.inputs.get 40).function = .ladder ∧
    (State.reset.ladders.get 1).state = .inactive ∧ windowOf LadderSettings.defaults 480 = some 4 ∧
    windowOf LadderSettings.defaults 560 = some 4 ∧ 1 + 1 < LadderSettings.defaults.stability ∧
    ((channel2 4 (some 4) 2 0 false).ladders.get 1).decode = 4 ∧ windowOf LadderSettings.defaults 561 = none ∧
    98 + 1 < 100 ∧ ((faulty 1).ladders.get 1).state = .fault ∧ windowOf LadderSettings.defaults 1023 = some 0 := by
  decide +kernel

theorem witness_AcceptedChangeReachesTheTracker :
    ((settledInput (some 7)).inputs.get 0).conditioning = .running ∧ Contact.closed ≠ .opened ∧
    InputSettings.defaults.noise.samples ≤ (some 7).getD 0 + 1 ∧ InputSettings.defaults.participate = true ∧
    Contact.closed = InputSettings.defaults.sense.pressLevel ∧
    ((settledInput (some 7)).tracker (.contact 0)).state = .idle ∧ Contact.opened ≠ InputSettings.defaults.sense.pressLevel ∧
    (pressed.tracker (.contact 0)).state = .down ∧ (pressed.tracker (.contact 0)).kind = some .momentary ∧
    ({ pressed.tracker (.contact 0) with kind := some .maintained } : Tracker).kind = some .maintained ∧
    ((after (.holdTimerExpiry (.contact 0)) pressed).tracker (.contact 0)).state = .held ∧
    Tracker.latent.state = .latent ∧
    (({ settledInput (some 7) with contactTrackers := pressed.contactTrackers } : State).tracker (.contact 0)).state = .down ∧
    ({ InputSettings.defaults with participate := false } : InputSettings).participate = false := by decide +kernel

theorem witness_SettlingCompletesAsTheTableGives :
    ((settling true).inputs.get 0).conditioning = .settling (some (.closed, 7)) true ∧
    ((settling true).settings.inputs.get 0).noise.samples ≤ 7 + 1 ∧
    ((settling true).settings.inputs.get 0).participate = true ∧
    Contact.closed = ((settling true).settings.inputs.get 0).sense.pressLevel ∧
    Contact.opened ≠ ((settling true).settings.inputs.get 0).sense.pressLevel ∧
    ((settling false).inputs.get 0).conditioning = .settling (some (.closed, 7)) false ∧
    ((settling true).tracker (.contact 0)).state = .idle ∧
    (∀ asserts, (((settling asserts).setTracker (.contact 0) Tracker.latent).tracker (.contact 0)).state = .latent) ∧
    (({ settling true with contactTrackers := pressed.contactTrackers } : State).tracker (.contact 0)).state = .down := by
  decide +kernel

theorem witness_ReadingsFindTheOneWindow : LadderSettings.defaults.ok = true ∧
    windowOf LadderSettings.defaults 40 = some 1 ∧ windowOf LadderSettings.defaults 120 = some 1 ∧
    windowOf LadderSettings.defaults 39 = none ∧ windowOf LadderSettings.defaults 1023 = some 0 := by decide +kernel

theorem witness_DecodeChangeReleasesThenPresses :
    ((channel2 3 (some 5) 2 0 false).ladders.get 1).state = .normal ∧ windowOf LadderSettings.defaults 670 = some 5 ∧
    LadderSettings.defaults.stability ≤ 2 + 1 ∧ ((channel2 3 (some 5) 2 0 false).ladders.get 1).baselinePending = false ∧
    5 ≠ ((channel2 3 (some 5) 2 0 false).ladders.get 1).decode ∧
    ((channel2 3 (some 5) 2 0 false).ladders.get 1).decode = (2 : LadderButton).val + 1 ∧
    5 = (4 : LadderButton).val + 1 ∧ ((channel2 3 (some 5) 2 0 false).tracker (.ladder 1 4)).state = .idle := by
  decide +kernel

theorem witness_FirstDecodeIsABaseline :
    ((channel2 0 (some 5) 2 0 true).ladders.get 1).state = .normal ∧ windowOf LadderSettings.defaults 670 = some 5 ∧
    LadderSettings.defaults.stability ≤ 2 + 1 ∧ ((channel2 0 (some 5) 2 0 true).ladders.get 1).baselinePending = true ∧
    ((channel2 0 (some 5) 2 0 true).tracker (.ladder 1 4)).state = .idle ∧ 5 = (4 : LadderButton).val + 1 ∧
    windowOf LadderSettings.defaults 980 = some 0 ∧ ∀ b : LadderButton, 0 ≠ b.val + 1 := by decide +kernel

theorem witness_LadderFaultAndRecovery :
    ((channel2 5 none 0 99 false).ladders.get 1).state = .normal ∧ windowOf LadderSettings.defaults 0 = none ∧
    100 ≤ 99 + 1 ∧ ((channel2 5 none 0 99 false).ladders.get 1).decode = 4 + 1 ∧
    ((faulty 2).ladders.get 1).state = .fault ∧ windowOf LadderSettings.defaults 940 = some 0 ∧
    LadderSettings.defaults.stability ≤ 2 + 1 := by decide +kernel

theorem witness_BusTimersDoNothingElse :
    (turning .ident).window = some 4 ∧ ({ turning .ident with window := none } : Turn).window = none ∧
    (((Table.replicate 8 none).set 0 (some 20) : Table (Option Nat) 8).get 0).isSome = true := by decide

theorem witness_IdentReplyIdentifiesTheStation :
    (stationed (StationState.started .identifying) .ident).turn = some (turning .ident) ∧
    addressByte 0 = 1 ∧ (1 : Byte) ≠ 0 ∧ (8 : Byte).toNat ≤ 8 ∧ (1 : Byte) ^^^ 0x82 ^^^ 1 ^^^ 8 ^^^ 0x8A = 0 ∧
    (1 : Byte).toNat = StationSettings.defaults.expectedType ∧ (1 : Byte) ^^^ 0x82 ^^^ 2 ^^^ 8 ^^^ 0x89 = 0 ∧
    (2 : Byte).toNat ≠ StationSettings.defaults.expectedType ∧
    (turning .ident).deferred = false ∧ firstServed State.reset = none ∧
    nextServed 31 (stationed (StationState.started .identifying) .ident) = some 0 := by decide +kernel

/-- A POLL in progress with a baseline pending, and one whose map has button 1 held: a reply with button 2 held alone. -/
theorem witness_KeyMapsBecomePressesAndReleases :
    (stationed (active 0 0 true) dark).turn = some (turning dark) ∧
    ((stationed (active 0 0 true) dark).stations.get 0).baselinePending = true ∧
    (stationed (active 1 0 false) dark).turn = some (turning dark) ∧
    ((stationed (active 1 0 false) dark).stations.get 0).baselinePending = false ∧
    addressByte 0 = 1 ∧ (1 : Byte) ^^^ 0x81 ^^^ 0x02 ^^^ 0x82 = 0 ∧
    ((0x02 : Byte) &&& buttonsUpTo 4).getLsbD 0 = false ∧ (0x01 : Byte).getLsbD 0 = true ∧
    ((0x02 : Byte) &&& buttonsUpTo 4).getLsbD 1 = true ∧ (0x01 : Byte).getLsbD 1 = false ∧
    ((stationed (active 1 0 false) dark).tracker (.station 0 1)).state = .idle ∧
    (({ stationed (active 1 0 false) dark with
      stationTrackers := State.reset.stationTrackers.set 0 (Table.replicate 8 (pressed.tracker (.contact 0))) } :
        State).tracker (.station 0 1)).state = .down := by decide +kernel

/-- A turn during which its station was written, of an ACTIVE station with button 1 held and of one being identified. -/
def deferring (request : BusRequest) (st : StationState) : State :=
  { stationed st request with turn := some { turning request with deferred := true } }

theorem witness_FailedAndDeferredTurnsEnd :
    (stationed (active 0 1 false) dark).turn = some (turning dark) ∧ 1 + 1 < 3 ∧
    badFor (turning dark) ⟨1, 0x81, [0x01], 0x00⟩ = true ∧
    (stationed (StationState.started .missing) .ident).turn = some (turning .ident) ∧
    badFor (turning .ident) ⟨1, 0x81, [0x01], 0x00⟩ = true ∧
    (deferring dark (active 1 0 false)).turn = some { turning dark with deferred := true } ∧
    badFor { turning dark with deferred := true } ⟨1, 0x81, [0x01], 0x81⟩ = false ∧
    ((deferring dark (active 1 0 false)).stations.get 0).state = .active ∧
    ((deferring dark (active 1 0 false)).stations.get 0).keyMap.getLsbD 0 = true ∧
    badFor { turning dark with deferred := true } ⟨1, 0x81, [0x01], 0x00⟩ = true ∧
    badFor { turning .ident with deferred := true } ⟨1, 0x82, [1, 4], 0x86⟩ = false := by decide +kernel

theorem witness_ThirdMissMakesTheStationMissing :
    (stationed (active 1 2 false) dark).turn = some (turning dark) ∧
    3 ≤ ((stationed (active 1 2 false) dark).stations.get 0).misses + 1 ∧
    badFor (turning dark) ⟨1, 0x81, [0x01], 0x00⟩ = true ∧
    ((stationed (active 1 2 false) dark).stations.get 0).keyMap.getLsbD 0 = true := by decide +kernel

theorem witness_BusRequestsAreFramedAndCarryThePatterns :
    (turning dark).request = dark ∧ (turning .ident).request = .ident ∧ ((active 0 0 false).state) = .active ∧
    (StationState.started .missing).state ≠ .active := ⟨rfl, rfl, rfl, by decide⟩

/-- Where every slot is EMPTY, at most one binding matches. -/
theorem noBindings_lone {s : State} (h : s.settings.bindings = Settings.defaults.bindings) (src : Source) (trg : Trigger) :
    AtMostOneMatches src trg s := by
  intro b c x y hx
  simp [h, Settings.defaults] at hx

/-- A full ramp table, of the ramps of slots 1 to 16. -/
def sixteen : List Ramp := (List.finRange 16).map fun b => { ramp120 with binding := b.castLE (by decide) }

theorem witness_HoldExpiryDispatchesAndActionsAct : pressed.power = .running ∧
    (pressed.tracker (.contact 0)).state = .down ∧ (pressed.tracker (.contact 0)).timer.isSome = true ∧
    (∃ t, exec (.holdTimerExpiry (.contact 0)) pressed = .next t ∧ (t.tracker (.contact 0)).state = .held) ∧
    (State.reset.zones.get 0).force = false ∧ (∀ n, (State.reset.circuits.get n).claims = []) ∧
    ((lit [sceneClaim 0 .loc 500] 500 none).circuits.get 0).claims = [sceneClaim 0 .loc 500] ∧
    (zoned zoneDelayed ⟨.held, true, none⟩).zones.get 0 = ⟨.held, true, none⟩ ∧
    (zoned zoneDelayed ⟨.free, false, none⟩).flags.getLsbD 0 ≠ true ∧ RampTableOk { State.reset with ramps := [ramp120] } ∧
    RampTableOk { State.reset with ramps := sixteen } ∧ sixteen.length = 16 ∧ (∀ q ∈ sixteen, q.binding ≠ 39) ∧
    AtMostOneMatches (.contact 0) .hold pressed :=
  ⟨rfl, by decide +kernel, by decide +kernel, ⟨_, rfl, by decide +kernel⟩, by
    and_intros <;> first | decide +kernel | exact ⟨by decide, by decide, by decide⟩ | exact noBindings_lone rfl _ _⟩

/-- Slot 2 of `holdThenScene` alone: one LOCAL binding of zone 1, which the press captured. -/
def heldScene : State :=
  { State.reset with settings := { holdThenScene with bindings := holdThenScene.bindings.set 0 none } }

/-- Both slots of `holdThenScene`: the first runs and holds zone 1, so the second is suppressed when it is reached. -/
def mixedList : List (SlotId × Binding) :=
  [(0, { source := .contact 0, trigger := .press, action := .holdForce 0, cls := .performance, zone := 0, enabled := true }),
   (1, { source := .contact 0, trigger := .press, action := .sceneOn 0 none, cls := .loc, zone := 0, enabled := true })]

theorem mixed_matching : MatchingInOrder (.contact 0) .press { State.reset with settings := holdThenScene } mixedList := by
  refine ⟨by decide, fun b x => ?_⟩
  simp only [mixedList, holdThenScene, Table.get_set, Settings.defaults, Table.get_replicate, List.mem_cons,
    List.not_mem_nil, or_false, Prod.mk.injEq]
  constructor
  · rintro (⟨rfl, rfl⟩ | ⟨rfl, rfl⟩) <;> exact ⟨rfl, rfl, rfl, rfl⟩
  · rintro ⟨h, -, -, -⟩
    split at h
    · next e => subst e; cases h; exact .inr ⟨rfl, rfl⟩
    · split at h
      · next e => subst e; cases h; exact .inl ⟨rfl, rfl⟩
      · cases h

/-- Slot 2 alone matches in `heldScene`. -/
theorem heldScene_lone : AtMostOneMatches (.contact 0) .press heldScene := by
  intro b c x y hx hy
  simp only [heldScene, holdThenScene, Table.get_set, Settings.defaults, Table.get_replicate] at hx hy
  grind

/-- A list whose bindings all run, one whose bindings are all suppressed, and one in which the first runs and the second, in a
zone that the press captured, is suppressed whatever came between them; what comes, and what waits. -/
theorem witness_DispatchRunsAllButHeldLocalBindings :
    MatchingInOrder (.contact 0) .press { State.reset with settings := holdThenScene } mixedList ∧
    SomeRuns (betweenBindings (.contact 0)) [0] mixedList State.reset ∧
    SomeIsSuppressed (betweenBindings (.contact 0)) [0] mixedList State.reset ∧
    SomeRuns (betweenBindings (.contact 0)) [] (mixedList.take 1) State.reset ∧
    ¬SomeIsSuppressed (betweenBindings (.contact 0)) [] (mixedList.take 1) State.reset ∧
    SomeIsSuppressed (betweenBindings (.contact 0)) [0] (mixedList.drop 1) State.reset ∧
    ¬SomeRuns (betweenBindings (.contact 0)) [0] (mixedList.drop 1) State.reset ∧
    AtMostOneMatches (.contact 0) .press heldScene ∧
    (matching (.contact 0) .press heldScene).map (fun bx => (bx.1, bx.2.cls, bx.2.zone)) = [(1, .loc, 0)] ∧
    (0 : ZoneId) ∈ [(0 : ZoneId)] ∧ matching (.contact 1) .press heldScene = [] ∧
    reportsEvents heldScene (.contact 0) = true ∧ heldScene.settings.general.reportMask.getLsbD 0 = true ∧
    heldScene.reports.length < 32 ∧ State.reset.power = .running ∧
    requestOf (.putBinding bindingPayload) = some (0x33, bindingPayload) ∧ (0x33 : Byte) ∈ waitingKinds ∧
    requestOf (.putScene scenePayload) = some (0x34, scenePayload) ∧ (0x34 : Byte) ∉ waitingKinds ∧
    (headed 0x34 scenePayload).carrying = false ∧ ofStation (.contact 0) = false ∧ ofLadder (.contact 0) = false ∧
    turnAtRest (stationed (active 0 0 false) dark) = true ∧ channelAtRest 0 State.reset = true := by
  have none_before {before rest : List (SlotId × Binding)} {b : SlotId} {x : Binding} {y : SlotId × Binding}
      (e : [y] = before ++ (b, x) :: rest) : before = [] ∧ (b, x) = y := by
    rcases before with - | ⟨w, l⟩
    · exact ⟨rfl, (List.cons.inj e).1.symm⟩
    · simp at e
  refine ⟨mixed_matching, ⟨[], _, _, _, rfl, by decide +kernel⟩, ⟨[_], _, _, [], rfl, rfl, .inl (by decide)⟩,
    ⟨[], _, _, _, rfl, by decide +kernel⟩, ?_, ⟨[], _, _, [], rfl, by decide +kernel⟩, ?_, heldScene_lone, ?_⟩
  · rintro ⟨before, b, x, rest, e, h⟩
    obtain ⟨rfl, e⟩ := none_before (y := mixedList[0]) e
    cases e
    exact absurd h (by decide +kernel)
  · rintro ⟨before, b, x, rest, e, h⟩
    obtain ⟨rfl, e⟩ := none_before (y := mixedList[1]) e
    cases e
    exact h (by decide +kernel)
  · and_intros <;> decide +kernel

theorem fullList_ok : ClaimListOk fullList := ⟨by decide, by decide, by decide⟩

theorem witness_PlacementFollowsTheThreeRules : ClaimListOk fullList ∧ ClaimListOk [remote .base 1] ∧
    holdsKey (remote .base 1).key fullList = false ∧ fullList.length = 4 ∧
    (∀ last, fullList.getLast? = some last → (remote .base 1).cls.rank < last.cls.rank) ∧
    fullList.getLast? = some (sceneClaim 3 .loc 4) ∧
    (sceneClaim 3 .loc 4).cls.rank ≤ (remote .performance 1).cls.rank ∧
    holdsKey (remote .base 1).key [remote .base 1] = true ∧ [remote .base 1].length < 4 ∧
    holdsKey (remote .performance 1).key [remote .base 1] = false ∧ (rising 0).target ≠ 200 ∧ (rising 0).target ≠ 300 := by
  refine ⟨fullList_ok, ⟨by decide, by decide, by decide⟩, by decide, by decide, ?_, by decide, by decide, by decide,
    by decide, by decide, by decide, by decide⟩
  intro last h
  obtain rfl := Option.some.inj h
  decide

theorem witness_HostClaimRequestsAreAnswered :
    RequestHeads 0x1A [128, 2, 0xE8, 3, 0, 0] (headed 0x1A [128, 2, 0xE8, 3, 0, 0]) ∧
    ClaimClass.ofCode (byteAt [128, 2, 0xE8, 3, 0, 0] 1) = some .performance ∧
    idOf 128 (byteAt [128, 2, 0xE8, 3, 0, 0] 0) = some 127 ∧
    RequestHeads 0x1B [1, 3, 0, 0] (headed 0x1B [1, 3, 0, 0]) ∧ ClaimClass.ofCode (byteAt [1, 3, 0, 0] 1) = some .egress ∧
    idOf 128 (byteAt [1, 3, 0, 0] 0) = some 0 ∧
    RequestHeads 0x18 [96, 0, 0xFF, 0xFF] (headed 0x18 [96, 0, 0xFF, 0xFF]) ∧
    ClaimClass.ofCode (byteAt [96, 0, 0xFF, 0xFF] 1) = some .base ∧ idOf 96 (byteAt [96, 0, 0xFF, 0xFF] 0) = some 95 ∧
    RequestHeads 0x19 [96, 0, 0xFF, 0xFF] (headed 0x19 [96, 0, 0xFF, 0xFF]) :=
  ⟨heads _ _, by decide, by decide, heads _ _, by decide, by decide, heads _ _, by decide, by decide, heads _ _⟩

theorem witness_DropRestartWithdrawsEveryRestartClaim : RequestHeads 0x1C [0xFF, 0xFF] (headed 0x1C [0xFF, 0xFF]) :=
  heads _ _

/-- A circuit under an EGRESS claim, with a RECALL at the head of the queue. -/
def escaping : State := { lit [sceneClaim 0 .egress 1] 1 none with requests := [.request 0x18 [1, 2, 0, 0]] }

theorem witness_HostRequestsPlaceNoEgressClaim :
    requestOf (.recallRequest [1, 2, 0, 0]) = some (0x18, [1, 2, 0, 0]) ∧ (0x18 : Byte).toNat < 0x30 ∧
    exec (.recallRequest [1, 2, 0, 0]) escaping = .next (after (.recallRequest [1, 2, 0, 0]) escaping) ∧
    sceneClaim 0 .egress 1 ∈ ((after (.recallRequest [1, 2, 0, 0]) escaping).circuits.get 0).claims :=
  ⟨rfl, by decide, rfl, by decide +kernel⟩

theorem witness_EgressClaimStaysEffective : ClaimListOk ((lit fullList 1 none).circuits.get 0).claims ∧
    ((lit fullList 1 none).circuits.get 0).claims.head? = some (sceneClaim 0 .egress 1) ∧
    (sceneClaim 0 .egress 1).cls = .egress ∧ (remote .performance 9).cls ≠ .egress :=
  ⟨by rw [show ((lit fullList 1 none).circuits.get 0).claims = fullList by decide +kernel]; exact fullList_ok,
    by decide +kernel, rfl, by decide⟩

/-- Over 60 steps, a span of 30 and a span of 650. -/
theorem witness_FadesFollowTheirLine : State.reset.power = .running ∧
    ({ Circuit.started with fade := some (rising 58) } : Circuit).fade = some (rising 58) ∧
    (rising 58).count + 1 < (rising 58).steps ∧ (rising 59).steps ≤ (rising 59).count + 1 ∧ 1 ≤ (rising 0).steps ∧
    (rising 0).start ≠ (rising 0).target ∧
    max (rising 0).start ({ rising 0 with target := 230 } : Fade).target <
      min (rising 0).start ({ rising 0 with target := 230 } : Fade).target + (rising 0).steps ∧
    min (rising 0).start (rising 0).target + (rising 0).steps < max (rising 0).start (rising 0).target := by
  decide

/-- Circuit 1 at the last step of a fade under a REMOTE claim, its scene's LOCAL claim below it moved by the ramp of section 7.3,
whose scene is 12. -/
def ramped : State :=
  { lit [remote .performance 850, sceneClaim 11 .loc 200] 839 (some (rising 59)) with ramps := [ramp120] }

/-- The ramp of section 7.3 moves the claim below the effective one, and leaves the fade its last step. -/
theorem test_tick_ramps_below_a_fade : (after .tick ramped).circuits.get 0 =
    { (after .tick ramped).circuits.get 0 with
      claims := [remote .performance 850, sceneClaim 11 .loc 202], level := 850, fade := none } := by decide +kernel

theorem witness_RampStepsAddUpToTheRate : State.reset.power = .running ∧ ramp120.accumulator < 50 ∧
    ({ ramp120 with rate := 10, accumulator := 39 } : Ramp).step = 0 ∧
    ({ ramp120 with rate := 10, accumulator := 0 } : Ramp).accumulator = 0 ∧ ramp120.step ≠ 0 := by decide

theorem witness_DimmingLawsRoundHalfUp : State.reset.power = .running ∧ CircuitSettings.defaults.law = .linear ∧
    ({ CircuitSettings.defaults with law := .square } : CircuitSettings).law = .square := by decide

/-- A state in which much is going on: circuit 1 fades under two claims with its relay's dwell running and a change waiting
for it, circuit 2 waits for a crossing, a PERFORMANCE ramp runs in zone 1, which is forced and HELD, and zone 2 is FREE with
a LOCAL ramp; input 1 is pressed. -/
def busy : State :=
  { State.reset with
    settings := { Settings.defaults with
      circuits := (Settings.defaults.circuits.set 0 { CircuitSettings.defaults with law := .switched }).set 1
        { CircuitSettings.defaults with law := .switched } }
    circuits := (State.reset.circuits.set 0
      { level := 210, fade := some (rising 1), claims := [remote .performance 850, sceneClaim 0 .loc 200], request := true,
        output := 0, relay := { state := false, dwellRunning := true, elapsed := 100, waiting := .afterDwell true } }).set 1
      { level := 600, fade := none, claims := [remote .base 600], request := true, output := 0,
        relay := { state := false, dwellRunning := false, elapsed := 5000, waiting := .atCrossing true } }
    mains := lockedMains
    ramps := [{ ramp120 with binding := 3, cls := .performance, zone := 0 }, { ramp120 with binding := 39, zone := 1 }]
    zones := State.reset.zones.set 0 { state := .held, force := true, timer := none }
    contactTrackers := State.reset.contactTrackers.set 0
      { state := .down, kind := some .momentary, timer := some 300, holdTime := some 7, suppression := [2] }
    requests := [.damaged, .damaged, .damaged, .damaged]
    lost := 255 }

/-- What holds of the first two circuits' records and of a record as started holds of every circuit of `busy`. -/
theorem busy_circuits {P : CircuitSettings → Circuit → Prop}
    (h0 : P (busy.settings.circuits.get 0) (busy.circuits.get 0))
    (h1 : P (busy.settings.circuits.get 1) (busy.circuits.get 1)) (h : P CircuitSettings.defaults Circuit.started)
    (c : CircuitId) : P (busy.settings.circuits.get c) (busy.circuits.get c) := by
  by_cases e0 : c = 0
  · subst e0; exact h0
  · by_cases e1 : c = 1
    · subst e1; exact h1
    · have a : busy.settings.circuits.get c = CircuitSettings.defaults := by
        simp only [busy]
        rw [Table.get_set_ne _ _ (Ne.symm e1), Table.get_set_ne _ _ (Ne.symm e0)]
        simp [Settings.defaults]
      have b : busy.circuits.get c = Circuit.started := by
        simp only [busy]
        rw [Table.get_set_ne _ _ (Ne.symm e1), Table.get_set_ne _ _ (Ne.symm e0)]
        simp [State.reset]
      rw [a, b]; exact h

theorem witness_StepsKeepRelaysInOrder : RelaysInOrder busy ∧ step busy = .next busy := by
  have l : mainsLocked busy = true := by decide
  refine ⟨⟨fun c => ?_, fun c => ?_⟩, rfl⟩
  · rw [l]
    refine busy_circuits (P := fun cs x => x.relay.Sound cs true) ?_ ?_ ?_ c
    · have e : (busy.circuits.get 0).relay =
        { state := false, dwellRunning := true, elapsed := 100, waiting := .afterDwell true } := by decide +kernel
      rw [e]; exact ⟨fun b h => (by cases h; decide), fun b h => (by cases h)⟩
    · have e : (busy.circuits.get 1).relay =
        { state := false, dwellRunning := false, elapsed := 5000, waiting := .atCrossing true } := by decide +kernel
      have a : (busy.settings.circuits.get 1).align = true := by decide +kernel
      rw [e]; exact ⟨fun b h => (by cases h), fun b h => (by cases h; exact ⟨by decide, rfl, a, rfl⟩)⟩
    · exact ⟨fun b h => (by cases h), fun b h => (by cases h)⟩
  · refine busy_circuits (P := fun cs x => cs.law ≠ .switched → x.request = false) ?_ ?_ ?_ c
    · intro h; exact absurd (by decide +kernel) h
    · intro h; exact absurd (by decide +kernel) h
    · intro _; rfl

/-- A circuit's relay ON with nothing waiting; the circuit is dimmed, so its request is OFF. -/
theorem relayed_inOrder (dwell : Bool) : RelaysInOrder (relayed dwell .none) := by
  have e : ∀ c, (relayed dwell .none).circuits.get c = Circuit.started ∨
      ((relayed dwell .none).circuits.get c).relay.waiting = .none ∧
        ((relayed dwell .none).circuits.get c).request = false := by
    intro c
    simp only [relayed, State.setCircuit, Table.get_set]
    split
    · exact .inr ⟨rfl, rfl⟩
    · left; simp [State.reset]
  refine ⟨fun c => ?_, fun c _ => ?_⟩ <;> rcases e c with h | ⟨h, k⟩
  · rw [h]; exact ⟨fun b h => (by cases h), fun b h => (by cases h)⟩
  · exact ⟨fun b w => (by rw [h] at w; cases w), fun b w => (by rw [h] at w; cases w)⟩
  · rw [h]; rfl
  · exact k

/-- At a tick: a request equal to the relay state, one that waits for a crossing, one handed over during the dwell, and one
applied at once. -/
theorem witness_TickStepsFadesAndStartsTheFrame :
    (lit [remote .performance 850] 839 (some (rising 59))).power = .running ∧
    (lit [remote .performance 850] 839 (some (rising 59))).ramps = [] ∧
    ((lit [remote .performance 850] 839 (some (rising 59))).circuits.get 0).fade = some (rising 59) ∧
    (rising 59).steps ≤ (rising 59).count + 1 ∧ ramped.power = .running ∧ ramped.ramps ≠ [] ∧
    ((stepRamps ramped).circuits.get 0).fade = some (rising 59) ∧ RelaysInOrder busy ∧ (∀ dwell, RelaysInOrder (relayed dwell .none)) ∧
    ((after .tick busy).circuits.get 1).request = true ∧
    ((after .tick busy).circuits.get 0).request = (busy.circuits.get 0).relay.state ∧
    ((after .tick (relayed true .none)).circuits.get 0).request = false ∧
    ((relayed true .none).circuits.get 0).relay.dwellRunning = true ∧
    (busy.settings.circuits.get 1).align = true ∧ busy.mains.state = .locked ∧
    ((after .tick (relayed false .none)).circuits.get 0).request = false ∧
    ((relayed false .none).circuits.get 0).relay.state = true ∧ (relayed false .none).mains.state ≠ .locked :=
  ⟨rfl, rfl, by decide +kernel, by decide, rfl, by decide, by decide +kernel, witness_StepsKeepRelaysInOrder.1,
    relayed_inOrder, by
    and_intros <;> decide +kernel⟩

theorem witness_DwellProtectsTheRelay : RelaysInOrder busy ∧ busy.power = .running ∧
    (busy.circuits.get 0).relay.dwellRunning = true ∧ (busy.circuits.get 0).relay.waiting = .afterDwell true ∧
    ((busy.settings.circuits.get 0).align && mainsLocked busy) = true ∧
    (∃ t, exec .tick busy = .next t) ∧ Instr.tick ≠ .dwellEnd 0 ∧ Instr.tick ≠ .powerOn ∧ Instr.tick ≠ .resetLine ∧
    Instr.tick ≠ .lossOfSupply ∧ (∀ p, Instr.tick ≠ .putCircuit p) ∧ (∀ src trg, AtMostOneMatches src trg busy) ∧
    ((relayed true .none).circuits.get 0).relay.waiting = .none ∧
    (((relayed true (.afterDwell false)).settings.circuits.get 0).align && mainsLocked (relayed true (.afterDwell false)))
      = false :=
  ⟨witness_StepsKeepRelaysInOrder.1, rfl, by decide +kernel, by decide +kernel, by decide +kernel, ⟨_, rfl⟩,
    by decide, by decide, by decide, by decide, (by intro p h; cases h), noBindings_lone rfl, by decide +kernel,
    by decide +kernel⟩

/-- ABSENT; ACQUIRING inside, at the sixteenth, and outside the lock window; LOCKED inside and outside the keep window. -/
theorem witness_CrossingsLockTheMainsTracker :
    Mains.started.state = .absent ∧ Mains.started.previous = none ∧ lockedMains.previous = some 160000 ∧
    ({ Mains.started with state := .acquiring } : Mains).previous = none ∧
    160000 ≤ 169800 ∧ 169800 ≤ 160000 + 40000 ∧ 9800 ≤ 169800 - 160000 ∧ 170200 - 160000 ≤ 10200 ∧
    10200 < 170201 - 160000 ∧ 14 + 1 < 16 ∧ 16 ≤ 15 + 1 ∧ 169400 - 160000 ≥ 9400 ∧ 169399 - 160000 < 9400 ∧
    170600 - 160000 ≤ 10600 ∧ 10600 < 170601 - 160000 ∧ 200000 ≤ 160000 + 40000 ∧
    lockedMains.state = .locked ∧ ({ lockedMains with state := .acquiring, lockCount := 15 } : Mains).state = .acquiring ∧
    (busy.circuits.get 1).relay.waiting = .atCrossing true ∧ busy.mains = lockedMains := by
  decide +kernel

theorem witness_MainsSilenceAppliesWaitingChanges : busy.mains.state ≠ .absent ∧ busy.mains.silence.isSome = true ∧
    (busy.circuits.get 1).relay.waiting = .atCrossing true ∧
    ({ lockedMains with state := .acquiring } : Mains).state = .acquiring ∧
    ({ ZoneSettings.defaults with mask := BitVec.twoPow 12 11 } : ZoneSettings).mask.getLsbD 11 = true := by decide +kernel

theorem witness_ForceHoldsTheZone : RequestHeads 0x11 [16] (headed 0x11 [16]) ∧ idOf 16 (byteAt [16] 0) = some 15 ∧
    ((headed 0x11 [16]).zones.get 15).force = false ∧ (busy.zones.get 0).force = true ∧ (busy.zones.get 0).state = .held :=
  ⟨heads _ _, by decide, by decide +kernel, by decide +kernel, by decide +kernel⟩

theorem witness_ReleaseMovesTheZoneByItsTable : RequestHeads 0x12 [1] (headed 0x12 [1]) ∧
    idOf 16 (byteAt [1] 0) = some 0 ∧ ((zoned zoneDelayed ⟨.releasing, false, some 0⟩).zones.get 0).state = .releasing ∧
    ((zoned zoneDelayed ⟨.releasing, false, some 0⟩).zones.get 0).timer.isSome = true :=
  ⟨heads _ _, by decide, by decide +kernel, by decide +kernel⟩

theorem witness_SetFlagsChangesMaskedFlagsTogether : RequestHeads 0x10 [0x03, 0x01] (headed 0x10 [0x03, 0x01]) ∧
    ((zoned zoneDelayed ⟨.free, false, none⟩).settings.zones.get 0).mask.getLsbD 0 = true ∧
    called (zoned zoneDelayed ⟨.held, false, none⟩) 0 = false ∧ zoneDelayed.mode = .auto ∧ zoneDelayed.delay ≠ 0 ∧
    ZoneSettings.defaults.mode = .auto ∧ ZoneSettings.defaults.delay = 0 ∧
    ({ zoneDelayed with mode := .manual } : ZoneSettings).mode = .manual ∧
    called (zoned zoneDelayed ⟨.free, true, none⟩) 0 = true ∧
    (activeMasked { zoned { zoneDelayed with mask := 0xFFF } ⟨.free, false, none⟩ with
      silence := .expired
      ladders := State.reset.ladders.set 1 { LadderState.off with state := .fault } } 0) = 0xE00 ∧
    (activeMasked { stationed (StationState.started .missing) .ident with
      settings := { (stationed (StationState.started .missing) .ident).settings with
        zones := Table.replicate 16 { zoneDelayed with mask := 0x100 } } } 0) = 0x100 := by
  and_intros <;> first | exact heads _ _ | decide +kernel

theorem witness_AnnunciatorEnablesFollowTheHost : RequestHeads 0x13 [0xFF] (headed 0x13 [0xFF]) ∧
    State.reset.power ≠ .unpowered ∧ (∃ t, exec .resetLine State.reset = .next t) ∧
    (∃ t, exec (.putGeneral [0, 0, 0, 0, 0xFF]) (headed 0x38 [0, 0, 0, 0, 0xFF]) = .next t) ∧
    (∃ t, exec (.restart []) (headed 0x09 []) = .next t) :=
  ⟨heads _ _, by decide, ⟨_, rfl⟩, ⟨_, rfl⟩, ⟨_, rfl⟩⟩

theorem witness_FramerReadsEveryFrameBack : (List.replicate 240 (0 : Byte)).length ≤ 240 ∧ State.reset.framer = .idle := by
  decide +kernel

theorem witness_CharactersAndLinkTimers :
    State.reset.framer = .idle ∧ ({ State.reset with framer := .awaitLen 20 } : State).framer = .awaitLen 20 ∧
    [(0x11 : Byte)].length < 2 ∧ 2 ≤ [(0x11 : Byte), 0x02].length ∧ (Framer.awaitLen 20) ≠ .idle ∧
    ({ State.reset with silence := .running 0 } : State).silence = .running 0 ∧
    ({ State.reset with silence := .expired } : State).silence = .expired ∧ State.reset.silence ≠ .expired ∧
    (2 + (0x11 : Byte).toNat + ([(0x02 : Byte)].map (·.toNat)).sum + (0xEB : Byte).toNat) % 256 = 0 ∧
    ({ State.reset with sending := some (.report (.saved true)) } : State).sending.isSome = true := by decide

theorem witness_RepliesGoBeforeReports : State.reset.sending = none ∧ State.reset.replySlot = none ∧
    State.reset.reports = [] ∧ ({ State.reset with replySlot := some ⟨0x91, [0]⟩ } : State).replySlot = some ⟨0x91, [0]⟩ ∧
    ({ State.reset with reports := [.saved true] } : State).reports = [.saved true] ∧
    State.reset.settings.general.reportMask.getLsbD (Report.saved true).category.bit = true ∧
    (0 : BitVec 7).getLsbD (Report.saved true).category.bit = false ∧ State.reset.reports.length < 32 ∧
    32 ≤ (List.replicate 32 (Report.saved true)).length ∧ State.reset.ahead = none ∧ (told 1).ahead = some (0 + 1) ∧
    (told 0).ahead = some 0 ∧ (told 0).carrying = true ∧ 0 < (told 0).reports.length ∧ 1 < (told 1).reports.length := by
  decide +kernel

/-- A configuration whose pool is full: 32 scenes of 64 entries. -/
def fullPool : Settings :=
  { Settings.defaults with
    scenes := Table.ofFn fun sc => if sc.val < 32 then
        { Scene.defaults with entries := (List.finRange 64).map fun c => { circuit := c.castLE (by decide), level := 0 } }
      else Scene.defaults }

/-- Scene 96 with one entry, and with circuit 128 twice. -/
def oneMore : List Byte := [96, 0, 0, 0, 0, 0, 0, 0, 0, 0, 0, 0, 0, 0, 20, 0, 50, 0, 1, 128, 0xE8, 0x03]
def twice : List Byte :=
  [96, 0, 0, 0, 0, 0, 0, 0, 0, 0, 0, 0, 0, 0, 20, 0, 50, 0, 2, 128, 0xE8, 0x03, 128, 0, 0]

theorem witness_ChecksTurnRequestsAway_later : RequestHeads 0x11 [17] (headed 0x11 [17]) ∧
    lengthRight (.force [17]) = true ∧ fieldsInRange (.force [17]) = false ∧
    lengthRight (.putScene twice) = true ∧ fieldsInRange (.putScene twice) = true ∧ NamesTwice (.putScene twice) ∧
    fieldsInRange (.clear [1, 3, 0, 0]) = true ∧ ¬NamesTwice (.clear [1, 3, 0, 0]) ∧
    IsDenied (.clear [1, 3, 0, 0]) State.reset ∧ lengthRight (.putScene oneMore) = true ∧
    fieldsInRange (.putScene oneMore) = true ∧ ¬NamesTwice (.putScene oneMore) ∧
    ¬IsDenied (.putScene oneMore) { headed 0x34 oneMore with settings := fullPool } ∧
    HasNoRoom (.putScene oneMore) { headed 0x34 oneMore with settings := fullPool } ∧
    (headed 0x34 oneMore).saving = false :=
  ⟨heads _ _, rfl, by decide, by decide, by decide, ⟨twice, 0, 1, rfl, by decide, by decide, by decide⟩, by decide,
    (by rintro ⟨_, _, _, h, _⟩; cases h), .inl ⟨_, .inr (.inr (.inr rfl)), .inr (by decide)⟩, by decide, by decide,
    (by
      rintro ⟨p, i, j, h, hij, hj, _⟩
      obtain rfl := Instr.putScene.inj h
      have : j < 1 := hj
      omega),
    (by rintro (⟨_, h, _⟩ | ⟨_, _, _, _, h, _⟩ | ⟨_, h, _⟩) <;> simp at h),
    ⟨oneMore, 95, rfl, by decide, by decide +kernel⟩, rfl⟩

theorem witness_ChecksTurnRequestsAway : requestOf (.save []) = some (0x08, []) ∧ requestOf (.save [0]) = some (0x08, [0]) ∧
    RequestHeads 0x08 [0] (headed 0x08 [0]) ∧ lengthRight (.save [0]) = false ∧ lengthRight (.save []) = true ∧
    RequestHeads 0x08 [] { headed 0x08 [] with saving := true } ∧ (0x08 : Byte) ∈ busyKinds ∧
    ({ State.reset with requests := [.damaged] } : State).requests.head? = some .damaged ∧
    (headed 0x04 []).requests.head? = some (.request 0x04 []) ∧ (0x04 : Byte) ∉ requestKinds :=
  ⟨rfl, rfl, heads _ _, rfl, rfl, ⟨rfl, rfl, rfl⟩, by decide, rfl, rfl, by decide⟩

theorem witness_RequestOnAnEmptyQueueIsFirstReceived : requestOf (.hello []) = some (0x01, []) ∧
    State.reset.power = .running ∧ State.reset.replySlot = none ∧ State.reset.requests = [] ∧ State.reset.framer = .idle :=
  ⟨rfl, rfl, rfl, rfl, rfl⟩

/-- Input 41 from LADDER back to CONTACT, and input 1 with a new noise width. -/
def toContact : List Byte := [41, 0, 0, 0, 2, 1, 1, 0, 0, 7]
def otherWidth : List Byte := [1, 0, 0, 0, 3, 1, 1, 0, 0, 7]

/-- Input 1, which stands at OPEN, with OPEN as its press level; and with its kind changed. -/
def openPresses : List Byte := [1, 0, 0, 1, 2, 1, 1, 0, 0, 7]
def maintained : List Byte := [1, 0, 1, 0, 2, 1, 1, 0, 0, 7]

theorem witness_PutInputRestartsWhatItChanges : RequestHeads 0x30 toLadder (headed 0x30 toLadder) ∧
    (headed 0x30 toLadder).saving = false ∧
    inputOf toLadder = some (40, { InputSettings.defaults with function := .ladder }) ∧
    inputDenied 40 { InputSettings.defaults with function := .ladder } (headed 0x30 toLadder) = false ∧
    inputOf toContact = some (40, InputSettings.defaults) ∧
    ((after (.putInput toLadder) (headed 0x30 toLadder)).settings.inputs.get 40).function = .ladder ∧
    inputOf otherWidth = some (0, { InputSettings.defaults with noise := .ms32 }) ∧
    inputDenied 0 { InputSettings.defaults with noise := .ms32 } (headed 0x30 otherWidth) = false ∧
    inputOf openPresses = some (0, { InputSettings.defaults with sense := .openIsPress }) ∧
    ((settledInput none).inputs.get 0).conditioning = .running ∧
    ((settledInput none).inputs.get 0).filtered = Sense.openIsPress.pressLevel ∧
    InputSettings.defaults.participate = true ∧ InputSettings.defaults.sense ≠ .openIsPress ∧
    inputOf maintained = some (0, { InputSettings.defaults with kind := .maintained }) ∧
    ((settledInput none).inputs.get 0).filtered ≠ InputSettings.defaults.sense.pressLevel ∧
    ((faulty 0).ladders.get 1).state = .fault ∧ inputOfChannel 1 = 41 := by
  and_intros <;> first | exact heads _ _ | decide +kernel

/-- R8: the rewrite that makes OPEN the press level leaves the tracker LATENT. -/
theorem test_put_input_retakes : (after (.putInput openPresses) { settledInput none with
    requests := [.request 0x30 openPresses] }).tracker (.contact 0) = Tracker.latent := by decide +kernel

theorem witness_PutLadderAndPutStationStartAfresh : RequestHeads 0x31 ladderPayload (headed 0x31 ladderPayload) ∧
    ladderPayload.length = 34 ∧ ladderOf ladderPayload = some (0, { LadderSettings.defaults with homeZone := 3 }) ∧
    ((channel2 5 none 0 0 false).ladders.get 1).state ≠ .inactive ∧ (State.reset.ladders.get 0).state = .inactive ∧
    RequestHeads 0x32 stationPayload (headed 0x32 stationPayload) ∧ stationPayload.length = 22 ∧
    (stationOf stationPayload).map (·.1) = some 0 ∧ (turning dark).address = 0 ∧ State.reset.turn = none ∧
    ({ turning dark with address := 1 } : Turn).address ≠ 0 ∧
    ((stationed (active 1 0 false) dark).settings.stations.get 0).enabled = true ∧
    ((channel2 5 none 0 0 false).ladders.get 1).decode = (4 : LadderButton).val + 1 ∧
    ((faulty 0).ladders.get 1).state = .fault ∧ ((stationed (active 1 0 false) dark).stations.get 0).state = .active ∧
    ((stationed (active 1 0 false) dark).stations.get 0).keyMap.getLsbD 0 = true ∧
    (stationOf stationPayload).map (fun x => (x.2.enabled, x.2.homeZone)) = some (true, 0) ∧
    ((switched []).settings.stations.get 0).homeZone = 0 ∧ ((switched []).stations.get 0).state = .missing ∧
    ((switched []).stations.get 0).uncounted = false ∧ (switched []).turn = some (turning .ident) ∧
    ({ ZoneSettings.defaults with mask := BitVec.twoPow 12 8 } : ZoneSettings).mask.getLsbD 8 = true := by
  and_intros <;> first | exact heads _ _ | decide +kernel

theorem witness_PutsStoreTheirRecords : RequestHeads 0x33 [0x00, 0x02] (headed 0x33 [0x00, 0x02]) ∧
    idOf 512 (wordAt [0x00, 0x02] 0) = some 511 ∧ RequestHeads 0x33 bindingPayload (headed 0x33 bindingPayload) ∧
    (bindingOf bindingPayload).map (fun x => (x.1, x.2.cls)) = some (511, .loc) ∧
    RequestHeads 0x34 scenePayload (headed 0x34 scenePayload) ∧ scenePayload.length = 19 + 3 * sceneCount scenePayload ∧
    (sceneOf scenePayload).map (fun x => (x.1, repeatsCircuit x.2.entries, hasRoom x.1 x.2.entries.length State.reset)) =
      some (0, false, true) ∧
    RequestHeads 0x35 circuitPayload (headed 0x35 circuitPayload) ∧ (circuitOf circuitPayload).map (·.1) = some 127 ∧
    RequestHeads 0x36 zonePayload (headed 0x36 zonePayload) ∧ (zoneOf zonePayload).map (·.1) = some 15 ∧
    RequestHeads 0x37 [8, 1, 16] (headed 0x37 [8, 1, 16]) ∧ annunciatorOf [8, 1, 16] = some (7, .zoneHeld 15) ∧
    RequestHeads 0x38 [1, 10, 0x7F, 1, 2] (headed 0x38 [1, 10, 0x7F, 1, 2]) ∧
    (generalOf [1, 10, 0x7F, 1, 2]).map (·.silenceTimeout) = some 10 ∧
    (generalOf [1, 10, 0x7F, 1, 2]).map (·.nominal) = some .hz60 ∧ lockedMains.state = .locked ∧ RelaysInOrder busy := by
  and_intros <;> first | exact heads _ _ | decide +kernel | exact witness_StepsKeepRelaysInOrder.1

theorem witness_GetsReturnTheirRecords (k : Byte) (p : List Byte) : RequestHeads k p (headed k p) := heads k p

theorem witness_RecordsReadBackWhole : InputSettings.defaults.ok 0 = true ∧ LadderSettings.defaults.ok = true ∧
    StationSettings.defaults.ok = true ∧ (Action.level 127 1000 none).ok = true ∧
    (Action.sceneOn 95 (some 3000)).ok = true ∧ Scene.defaults.ok = true ∧
    (holdThenScene.scenes.get 0).ok = true ∧ CircuitSettings.defaults.ok = true ∧ ZoneSettings.defaults.ok = true ∧
    GeneralSettings.defaults.silenceTimeout ≤ 255 := by decide +kernel

theorem witness_ReadsAndQueriesAnswer : RequestHeads 0x20 [byteOf (numberOf (127 : CircuitId))]
    (headed 0x20 [byteOf (numberOf (127 : CircuitId))]) ∧ RequestHeads 0x01 [] (headed 0x01 []) := ⟨heads _ _, heads _ _⟩

theorem witness_QueryInputsReadsLevelsAndDecodes : RequestHeads 0x24 [] (headed 0x24 []) ∧
    ((channel2 5 none 0 0 false).ladders.get 1).decode ≤ 6 := ⟨heads _ _, by decide +kernel⟩

theorem witness_StationQueryReadsAndClears : RequestHeads 0x23 [byteOf (numberOf (31 : StationId)), boolByte true]
    (headed 0x23 [byteOf (numberOf (31 : StationId)), boolByte true]) := heads _ _

theorem witness_SavesWriteTheLiveConfiguration : RequestHeads 0x08 [] (headed 0x08 []) ∧ (headed 0x08 []).saving = false ∧
    ({ State.reset with saving := true } : State).saving = true := ⟨heads _ _, rfl, rfl⟩

theorem witness_WarmRestartKeepsTheLights : RequestHeads 0x09 [] (headed 0x09 []) ∧ (headed 0x09 []).saving = false :=
  ⟨heads _ _, rfl⟩

/-! ## A busy state meets each invariant, and steps -/

theorem witness_StepsKeepClaimsInOrder : ClaimsInOrder busy ∧ step busy = .next busy := by
  have e0 : (busy.circuits.get 0).claims = [remote .performance 850, sceneClaim 0 .loc 200] := by decide +kernel
  have e1 : (busy.circuits.get 1).claims = [remote .base 600] := by decide +kernel
  refine ⟨⟨fun c => ?_, fun c => ?_⟩, rfl⟩
  · refine busy_circuits (P := fun _ x => ClaimListOk x.claims) ?_ ?_ ⟨by decide, by decide, by decide⟩ c
    · rw [e0]; exact ⟨by decide, by decide, by decide⟩
    · rw [e1]; exact ⟨by decide, by decide, by decide⟩
  · refine busy_circuits (P := fun _ x => ∀ cl ∈ x.claims, cl.placedAs = true) ?_ ?_ (by simp [Circuit.started]) c
    · rw [e0]; decide
    · rw [e1]; decide

theorem defaults_inRange : Settings.defaults.InRange where
  inputs i := by
    have : Settings.defaults.inputs.get i = InputSettings.defaults := by simp [Settings.defaults]
    rw [this]; rfl
  ladders ch := by
    have : Settings.defaults.ladders.get ch = LadderSettings.defaults := by simp [Settings.defaults]
    rw [this]; decide +kernel
  stations a := by
    have : Settings.defaults.stations.get a = StationSettings.defaults := by simp [Settings.defaults]
    rw [this]; rfl
  bindings b x h := by simp [Settings.defaults] at h
  scenes sc := by
    have : Settings.defaults.scenes.get sc = Scene.defaults := by simp [Settings.defaults]
    rw [this]; decide
  pool := by decide +kernel
  circuits c := by
    have : Settings.defaults.circuits.get c = CircuitSettings.defaults := by simp [Settings.defaults]
    rw [this]; rfl
  zones z := by
    have : Settings.defaults.zones.get z = ZoneSettings.defaults := by simp [Settings.defaults]
    rw [this]; decide
  timeout := by decide

theorem witness_StepsKeepLevelsOnTheirWay : LevelsFollowTargets busy ∧ step busy = .next busy := by
  have e0 : busy.circuits.get 0 =
      { level := 210, fade := some (rising 1), claims := [remote .performance 850, sceneClaim 0 .loc 200],
        request := true, output := 0,
        relay := { state := false, dwellRunning := true, elapsed := 100, waiting := .afterDwell true } } := by
    decide +kernel
  have e1 : busy.circuits.get 1 =
      { level := 600, fade := none, claims := [remote .base 600], request := true, output := 0,
        relay := { state := false, dwellRunning := false, elapsed := 5000, waiting := .atCrossing true } } := by
    decide +kernel
  have r : busy.settings.InRange := by
    have d := defaults_inRange
    refine { d with circuits := fun c => ?_ }
    simp only [busy]
    rw [Table.get_set]; split
    · rfl
    · rw [Table.get_set]; split
      · rfl
      · exact d.circuits c
  refine ⟨⟨⟨r, fun c h => by simp [busy, State.reset] at h⟩, fun c => ?_⟩, rfl⟩
  refine busy_circuits (P := fun cs x => x.Sound cs) ?_ ?_ ?_ c
  · rw [e0]
    refine ⟨by decide, by decide, by decide, fun h => (by cases h), fun f h => ?_⟩
    cases h
    exact ⟨rfl, by decide, by decide, by decide, by decide, by decide⟩
  · rw [e1]
    exact ⟨by decide, by decide, by decide, fun _ => rfl, fun f h => (by cases h)⟩
  · exact ⟨by simp [Circuit.started], by decide, by decide, fun _ => rfl, fun f h => (by cases h)⟩

theorem witness_StepsKeepRampsInOrder : RampTableOk busy ∧ LocalRampsOnlyInFreeZones busy ∧ step busy = .next busy := by
  refine ⟨⟨by decide, by decide +kernel, by decide⟩, ?_, rfl⟩
  show ∀ r ∈ busy.ramps, r.cls = .loc → (busy.zones.get r.zone).state = .free
  decide +kernel

theorem witness_StepsKeepZonesUnderTheirConditions : ZonesFollowConditions busy ∧ step busy = .next busy := by
  refine ⟨⟨by decide +kernel, by decide +kernel, ?_⟩, rfl⟩
  show ∀ ch, (busy.ladders.get ch).state = .inactive ↔ (busy.settings.inputs.get (inputOfChannel ch)).function = .contact
  decide +kernel

/-- Input 1 egress-capable, with an EGRESS binding in slot 1. -/
def escapeSettings : Settings :=
  { Settings.defaults with
    inputs := Settings.defaults.inputs.set 0 { InputSettings.defaults with egressCapable := true }
    bindings := Settings.defaults.bindings.set 0 (some
      { source := .contact 0, trigger := .press, action := .sceneOn 0 none, cls := .egress, zone := 0, enabled := true }) }

theorem witness_StepsKeepTheEgressLaw :
    OfBothCopies Settings.EgressLaw { State.reset with settings := escapeSettings, image := some escapeSettings } ∧
    step { State.reset with settings := escapeSettings, image := some escapeSettings } =
      .next { State.reset with settings := escapeSettings, image := some escapeSettings } := by
  have h : escapeSettings.EgressLaw := by
    intro b x hb _
    simp only [escapeSettings] at hb
    rw [Table.get_set] at hb
    split at hb
    · cases hb; exact ⟨0, rfl, by decide +kernel, by decide +kernel⟩
    · simp [Settings.defaults] at hb
  exact ⟨⟨h, fun c hc => by cases hc; exact h⟩, rfl⟩

theorem witness_StepsKeepTrackersInOrder : TrackersInOrder busy ∧ step busy = .next busy := by
  refine ⟨fun src => ?_, rfl⟩
  cases src with
  | contact i =>
    simp only [State.tracker, busy]
    rw [Table.get_set]; split
    · rfl
    · simp [State.reset]; rfl
  | ladder ch b => simp [State.tracker, busy, State.reset]; rfl
  | station a b => simp [State.tracker, busy, State.reset]; rfl

theorem witness_StepsKeepCountsBounded : CountsBounded busy ∧ step busy = .next busy :=
  ⟨⟨by decide, by decide, by decide, by decide +kernel⟩, rfl⟩

end Sys2Proof.Tests
end

/-! PROOFS. What QUERY_INPUTS reads: the bits of its first six bytes and the numbers of its last eight (R5, R14). -/

namespace Sys2Proof.Machine

/-! ## A byte of eight bits -/

/-- Adding the powers of two that a family of bits selects, to a start `a` and in units of `c`, adds the number with those
bits. -/
theorem foldl_add_twoPow {n : Nat} (f : Fin n → Bool) (a c : Nat) :
    (List.finRange n).foldl (fun m j => m + if f j then c * 2 ^ j.val else 0) a = a + c * Nat.ofBits f := by
  induction n generalizing a c with
  | zero => simp
  | succ n ih =>
    have tail := ih (f ∘ Fin.succ) (a + if f 0 then c else 0) (c * 2)
    simp only [Function.comp_apply, Nat.mul_assoc, ← Nat.pow_succ'] at tail
    have head : (if f 0 then c else 0) = c * (f 0).toNat := by cases f 0 <;> simp
    simp only [List.finRange_succ, List.foldl_cons, List.foldl_map, Fin.val_succ, Fin.val_zero, Nat.pow_zero, Nat.mul_one]
    rw [tail, Nat.ofBits_succ, head]
    ring

/-- A byte made of eight bits, lowest first, holds each of them (R188). -/
theorem inputByte_eq_ofBits (s : State) (k : Fin 6) :
    inputByte s k = byteOf (Nat.ofBits fun j : Fin 8 => readsClosed s ⟨8 * k.val + j.val, by omega⟩) := by
  have sum := foldl_add_twoPow (fun j : Fin 8 => readsClosed s ⟨8 * k.val + j.val, by omega⟩) 0 1
  simp only [Nat.one_mul, Nat.zero_add] at sum
  rw [inputByte, sum]

theorem inputByte_bit (s : State) (k : Fin 6) (j : Fin 8) :
    (inputByte s k).getLsbD j.val = readsClosed s ⟨8 * k.val + j.val, by omega⟩ := by
  rw [inputByte_eq_ofBits, byteOf, BitVec.getLsbD_ofNat, Nat.testBit_ofBits_lt _ _ j.isLt]
  simp

/-! ## The fourteen results -/

theorem inputResults_length (s : State) : (inputResults s).length = 14 := by
  simp [inputResults, s.ladders.size]

theorem inputResults_input (s : State) (k : Fin 6) : (inputResults s).getD k.val 0 = inputByte s k := by
  simp [inputResults, List.getD_eq_getElem?_getD, List.getElem?_append_left]

theorem inputResults_channel (s : State) (ch : ChannelId) :
    (inputResults s).getD (6 + ch.val) 0 = byteOf (readDecode (s.ladders.get ch)) := by
  simp [inputResults, List.getD_eq_getElem?_getD, List.getElem?_append_right, Table.get_eq_getElem, s.ladders.size]

/-- The bit of an input is its filtered level (R5). -/
theorem inputResults_bit (s : State) (i : InputId) :
    ((inputResults s).getD (i.val / 8) 0).getLsbD (i.val % 8) = readsClosed s i := by
  rw [inputResults_input s ⟨i.val / 8, by omega⟩, inputByte_bit s _ ⟨i.val % 8, by omega⟩]
  congr 1
  exact Fin.ext (Nat.div_add_mod i.val 8)

/-! ## A channel's stable decode -/

/-- A channel reads its stable decode while NORMAL with its baseline taken, and 0 otherwise (R14). -/
theorem readDecode_eq (l : LadderState) :
    readDecode l = if l.state = .normal ∧ l.baselinePending = false then l.decode else 0 := by
  unfold readDecode
  cases l.state with
  | normal => cases l.baselinePending <;> simp
  | inactive => simp
  | fault => simp

theorem readDecode_le (l : LadderState) : readDecode l ≤ l.decode := by
  rw [readDecode_eq]
  split <;> omega

theorem byteOf_toNat {n : Nat} (h : n < 256) : (byteOf n).toNat = n := by
  simpa [byteOf] using h

/-! ## The request -/

/-- QUERY_INPUTS at the head of the queue is answered DONE with its results, and nothing else changes (R176, R178). -/
theorem queryInputs_headed {s : State} (h : RequestHeads 0x24 [] s) :
    exec (.queryInputs []) s = .next (replied 0x24 .done (inputResults s) s.taken) := request_headed h

/-- Settles O48: the request is answered with `inputResults`, whose bits are the filtered levels and whose last eight
bytes are the stable decodes. -/
theorem queryInputsReadsLevelsAndDecodes : Obligations.QueryInputsReadsLevelsAndDecodes := by
  intro s h
  refine ⟨inputResults s, queryInputs_headed h, inputResults_length s, inputResults_bit s, fun ch decoded => ?_⟩
  have small : readDecode (s.ladders.get ch) < 256 := by
    have := readDecode_le (s.ladders.get ch)
    omega
  rw [inputResults_channel, byteOf_toNat small, readDecode_eq]

end Sys2Proof.Machine

/-! PROOFS. A placement on one circuit (R98 to R101), what the circuit then heads for (R105, R120), and the withdrawal of every
RESTART claim (R112). -/

namespace Sys2Proof.Machine

/-! ## Heading for a target (R105, R120) -/

section
variable {c : Circuit} {target fade : Nat}

theorem Circuit.headFor_of_aim (h : target = c.aim) : c.headFor target fade = c := if_pos h

theorem Circuit.headFor_of_level (ha : target ≠ c.aim) (hl : target = c.level) :
    c.headFor target fade = { c with fade := none } := by
  rw [Circuit.headFor, if_neg ha, if_pos hl]

theorem Circuit.headFor_of_no_fade (ha : target ≠ c.aim) (hl : target ≠ c.level) (hf : fade = 0) :
    c.headFor target fade = { c with level := target, fade := none } := by
  rw [Circuit.headFor, if_neg ha, if_neg hl, if_pos hf]

theorem Circuit.headFor_of_fade (ha : target ≠ c.aim) (hl : target ≠ c.level) (hf : fade ≠ 0) :
    c.headFor target fade =
      { c with fade := some { start := c.level, target := target, steps := 5 * fade, count := 0 } } := by
  rw [Circuit.headFor, if_neg ha, if_neg hl, if_neg hf]

end

/-! ## The front of a class group (R97) -/

/-- Behind the higher classes at the front of a list in order, no claim is of a higher class. -/
theorem rank_le_of_mem_dropWhile {n : Claim} {l : List Claim} (h : l.Pairwise fun a b => b.cls.rank ≤ a.cls.rank) :
    ∀ a ∈ l.dropWhile (fun c => decide (n.cls.rank < c.cls.rank)), a.cls.rank ≤ n.cls.rank := by
  induction l with
  | nil => simp
  | cons c l ih =>
    obtain ⟨first, rest⟩ := List.pairwise_cons.mp h
    by_cases hc : n.cls.rank < c.cls.rank
    · simpa [List.dropWhile_cons, hc] using ih rest
    · intro a ha
      simp only [List.dropWhile_cons, hc, decide_false, Bool.false_eq_true, if_false, List.mem_cons] at ha
      rcases ha with rfl | ha
      · omega
      · have := first a ha
        omega

/-- A claim inserted into a list in order stands between the claims of higher classes and all others (R97). -/
theorem insertClaim_front (n : Claim) {l : List Claim} (h : l.Pairwise fun a b => b.cls.rank ≤ a.cls.rank) :
    ∃ higher lower, higher ++ lower = l ∧ (∀ a ∈ higher, n.cls.rank < a.cls.rank) ∧
      (∀ a ∈ lower, a.cls.rank ≤ n.cls.rank) ∧ insertClaim n l = higher ++ n :: lower :=
  ⟨_, _, List.takeWhile_append_dropWhile, fun a ha => by simpa using List.mem_takeWhile_imp ha,
    rank_le_of_mem_dropWhile h, insertClaim_split n l⟩

/-- With a new claim behind the higher classes, the target is the level of the first of these or, with none, of the new claim
(R97, R105). -/
theorem retarget_front (cs : CircuitSettings) (fade : Nat) (c : Circuit) (n : Claim) (higher lower : List Claim) :
    { c with claims := higher ++ n :: lower }.retarget cs fade =
      { c with claims := higher ++ n :: lower }.headFor
        (match higher with
          | [] => n.level
          | e :: _ => e.level) fade := by
  cases higher <;> rfl

/-! ## A placement on a circuit, by the rule that applies -/

section
variable {c : CircuitId} {n : Claim} {fade : Nat} {s : State}

theorem placeClaim_of_held {l : List Claim} (hk : holdsKey n.key l = true) :
    placeClaim n l = .taken (insertClaim n (dropKey n.key l)) := by
  rw [placeClaim, if_pos hk]

theorem placeClaim_of_room {l : List Claim} (hk : holdsKey n.key l = false) (hl : l.length < 4) :
    placeClaim n l = .taken (insertClaim n l) := by
  simp [placeClaim, hk, hl]

theorem placeClaim_of_evicting {l : List Claim} {last : Claim} (hk : holdsKey n.key l = false) (hl : l.length = 4)
    (hg : l.getLast? = some last) (hr : last.cls.rank ≤ n.cls.rank) :
    placeClaim n l = .evicted last (insertClaim n l.dropLast) := by
  simp [placeClaim, hk, hl, hg, Nat.not_lt.mpr hr]

theorem placeClaim_of_outranked {l : List Claim} (hk : holdsKey n.key l = false) (hl : l.length = 4)
    (hr : ∀ last, l.getLast? = some last → n.cls.rank < last.cls.rank) : placeClaim n l = .refused := by
  cases hg : l.getLast? with
  | none => simp [List.getLast?_eq_none_iff.mp hg] at hl
  | some last => simp [placeClaim, hk, hl, hg, hr last hg]

theorem place_of_taken {l : List Claim} (h : placeClaim n (s.circuits.get c).claims = .taken l) :
    place c n fade s =
      s.setCircuit c ({ s.circuits.get c with claims := l }.retarget (s.settings.circuits.get c) fade) := by
  simp only [place, h]

theorem place_of_evicted {l : List Claim} {last : Claim}
    (h : placeClaim n (s.circuits.get c).claims = .evicted last l) :
    place c n fade s = raise (.evicted c last.key)
      (s.setCircuit c ({ s.circuits.get c with claims := l }.retarget (s.settings.circuits.get c) fade)) := by
  simp only [place, h]

theorem place_of_refused (h : placeClaim n (s.circuits.get c).claims = .refused) :
    place c n fade s = raise (.refused c n.key) s := by
  simp only [place, h]

end

/-- Settles O21: each rule gives the list of `insertClaim_front` over the claims that stay, and the target of that list is
the level of its first claim. -/
theorem placementFollowsTheThreeRules : Obligations.PlacementFollowsTheThreeRules := by
  refine ⟨fun c n fade s ok => ⟨fun hk hl hr => place_of_refused (placeClaim_of_outranked hk hl hr),
      fun kept evicted rule => ?_⟩,
    fun c target fade => ⟨Circuit.headFor_of_aim, Circuit.headFor_of_level, Circuit.headFor_of_no_fade,
      Circuit.headFor_of_fade⟩⟩
  have stays : kept.Sublist (s.circuits.get c).claims := by
    obtain ⟨rfl, -⟩ | ⟨rfl, -⟩ | ⟨last, rfl, -⟩ := rule
    · exact List.filter_sublist
    · exact List.Sublist.refl _
    · exact List.dropLast_sublist _
  obtain ⟨higher, lower, split, above, below, placed⟩ := insertClaim_front n (ok.sublist stays).ordered
  refine ⟨higher, lower, split, above, below, ?_⟩
  obtain ⟨rfl, hk, rfl⟩ | ⟨rfl, hk, hl, rfl⟩ | ⟨last, rfl, hk, hl, hg, hr, rfl⟩ := rule
  · rw [place_of_taken (placeClaim_of_held hk), placed]
    exact congrArg (s.setCircuit c) (retarget_front _ _ _ _ _ _)
  · rw [place_of_taken (placeClaim_of_room hk hl), placed]
    exact congrArg (s.setCircuit c) (retarget_front _ _ _ _ _ _)
  · rw [place_of_evicted (placeClaim_of_evicting hk hl hg hr), placed]
    exact congrArg (fun v => raise (.evicted c last.key) (s.setCircuit c v)) (retarget_front _ _ _ _ _ _)

/-! ## Withdrawals -/

theorem dropKey_eq_self {k : Key} {l : List Claim} : dropKey k l = l ↔ holdsKey k l = false := by
  simp [dropKey, holdsKey, List.filter_eq_self]

/-- A claim has a key when it has the key's owner and its class (R95). -/
theorem dropKey_eq_filter (k : Key) (l : List Claim) :
    dropKey k l = l.filter fun cl => !(decide (cl.owner = k.owner) && decide (cl.cls = k.cls)) := by
  refine List.filter_congr fun cl _ => ?_
  cases k
  simp [Claim.key]

/-- A circuit from which a key is withdrawn stays as it is where its list loses no claim, and otherwise heads for the target
of the list it is left with (R102, R105). -/
theorem Circuit.withdraw_eq (cs : CircuitSettings) (k : Key) (fade : Nat) (c : Circuit) :
    c.withdraw cs k fade =
      if dropKey k c.claims = c.claims then c else { c with claims := dropKey k c.claims }.retarget cs fade := by
  simp only [Circuit.withdraw, dropKey_eq_self]
  cases holdsKey k c.claims <;> rfl

theorem withdrawEverywhere_get (k : Key) (fade : Nat) (s : State) (c : CircuitId) :
    (withdrawEverywhere k fade s).circuits.get c =
      (s.circuits.get c).withdraw (s.settings.circuits.get c) k fade := changeCircuits_get _ _ _

/-- A request at the head of the queue that is carried out is answered DONE with its results (R176 to R178). -/
theorem request_done {k : Byte} {carry : List Byte → State → Answer} {p results : List Byte} {s u : State}
    (h : RequestHeads k p s) (hc : carry p s.taken = done results u) :
    request k carry p s = .next (replied k .done results u) := by
  rw [request_headed h, hc]
  rfl

/-- DROP_RESTART at the head of the queue withdraws the key of RESTART claims everywhere (R112). -/
theorem dropRestart_headed {p : List Byte} {s : State} (h : RequestHeads 0x1C p s) (hl : p.length = 2) :
    exec (.dropRestart p) s = .next (replied 0x1C .done []
      (withdrawEverywhere { owner := .restart, cls := .base } (min (wordAt p 0) 3000) s.taken)) :=
  request_done h (if_neg (not_not_intro hl))

/-- Settles O23: the state answered from is the withdrawal of the one RESTART key from every circuit. -/
theorem dropRestartWithdrawsEveryRestartClaim : Obligations.DropRestartWithdrawsEveryRestartClaim := by
  intro p s h hl
  refine ⟨_, dropRestart_headed h hl, withdrawEverywhere_frame _ _ _, rfl, rfl, fun c => ?_⟩
  rw [withdrawEverywhere_get, Circuit.withdraw_eq, dropKey_eq_filter]
  rfl

end Sys2Proof.Machine

/-! PROOFS. What a tick shows of each circuit (R123), and the line of a fade from its start to its target (R121). -/

namespace Sys2Proof.Machine

/-! ## The tick, circuit by circuit -/

theorem tick_running {s : State} (h : s.power = .running) : exec .tick s = .next (serve (runTick s)) := by
  show event runTick s = _
  simp [event, whenRunning, h]

/-- A fade step reads the level and the record alone (R121). -/
theorem Circuit.fadeStep_congr {c d : Circuit} (hl : c.level = d.level) (hf : c.fade = d.fade) :
    c.fadeStep.level = d.fadeStep.level ∧ c.fadeStep.fade = d.fadeStep.fade := by
  unfold Circuit.fadeStep
  rw [hf]
  cases d.fade with
  | none => exact ⟨hl, hf⟩
  | some f => dsimp only; split <;> exact ⟨rfl, rfl⟩

/-- After a tick a circuit has its claims as the ramps leave them, and the level and the record of its fade step (R121, R123,
R127): the passing of time and the conversion to an output reach none of them. -/
theorem tick_circuit (s : State) (c : CircuitId) :
    ((serve (runTick s)).circuits.get c).claims = ((stepRamps s).circuits.get c).claims ∧
    ((serve (runTick s)).circuits.get c).level = ((stepRamps s).circuits.get c).fadeStep.level ∧
    ((serve (runTick s)).circuits.get c).fade = ((stepRamps s).circuits.get c).fadeStep.fade := by
  obtain ⟨-, alike⟩ := stepRamps_passTime s
  obtain ⟨hl, hf, hc⟩ := alike c
  rw [serve_circuits, runTick_circuit]
  exact ⟨(Circuit.fadeStep_claims _).trans hc, Circuit.fadeStep_congr hl hf⟩

/-! ## A fade step, by whether it is the last -/

theorem Circuit.fadeStep_of_running {c : Circuit} {f : Fade} (h : c.fade = some f) (hk : f.count + 1 < f.steps) :
    c.fadeStep = { c with level := f.levelAt (f.count + 1), fade := some { f with count := f.count + 1 } } := by
  simp [Circuit.fadeStep, h, Nat.not_le.mpr hk]

theorem Circuit.fadeStep_of_last {c : Circuit} {f : Fade} (h : c.fade = some f) (hk : f.steps ≤ f.count + 1) :
    c.fadeStep = { c with level := f.target, fade := none } := by
  simp [Circuit.fadeStep, h, hk]

/-! ## The part of its span that a fade has covered -/

/-- |T - S|, the number of units between a fade's ends (R121). -/
def Fade.span (f : Fade) : Nat := max f.start f.target - min f.start f.target

/-- |T - S| k / N, the units a fade has covered at step k (R121). -/
def Fade.covered (f : Fade) (k : Nat) : Nat := f.span * k / f.steps

@[simp] theorem Fade.covered_zero (f : Fade) : f.covered 0 = 0 := by simp [Fade.covered]

theorem Fade.covered_steps {f : Fade} (h : 1 ≤ f.steps) : f.covered f.steps = f.span := Nat.mul_div_cancel _ h

theorem Fade.covered_mono (f : Fade) {j k : Nat} (h : j ≤ k) : f.covered j ≤ f.covered k :=
  Nat.div_le_div_right (Nat.mul_le_mul_left _ h)

theorem Fade.covered_le_span {f : Fade} {k : Nat} (hk : k ≤ f.steps) : f.covered k ≤ f.span :=
  Nat.div_le_of_le_mul (Nat.mul_comm f.span _ ▸ Nat.mul_le_mul_left _ hk)

theorem Fade.covered_lt_span {f : Fade} {k : Nat} (hs : 0 < f.span) (hk : k < f.steps) : f.covered k < f.span :=
  Nat.div_lt_of_lt_mul (by rw [Nat.mul_comm f.steps]; exact Nat.mul_lt_mul_of_pos_left hk hs)

/-- A fade's level is its start, moved toward its target by what it has covered. -/
theorem Fade.levelAt_cases (f : Fade) :
    (f.start ≤ f.target ∧ f.span = f.target - f.start ∧ ∀ k, f.levelAt k = f.start + f.covered k) ∨
    (f.target < f.start ∧ f.span = f.start - f.target ∧ ∀ k, f.levelAt k = f.start - f.covered k) := by
  rcases Nat.lt_or_ge f.target f.start with h | h
  · have span : f.span = f.start - f.target := by unfold Fade.span; omega
    exact .inr ⟨h, span, fun k => by rw [Fade.levelAt, if_neg (by omega), Fade.covered, span]⟩
  · have span : f.span = f.target - f.start := by unfold Fade.span; omega
    exact .inl ⟨h, span, fun k => by rw [Fade.levelAt, if_pos h, Fade.covered, span]⟩

/-- The model's level on natural numbers is R121's formula on integers, whose division drops the fraction toward zero. -/
theorem Fade.levelAt_eq_tdiv {f : Fade} {k : Nat} (hk : k ≤ f.steps) :
    (f.levelAt k : Int) = f.start + ((f.target - f.start : Int) * k).tdiv f.steps := by
  have whole : ((f.span : Int) * k).tdiv f.steps = f.covered k := by
    rw [Fade.covered, ← Int.natCast_mul, ← Int.ofNat_tdiv]
  have part := Fade.covered_le_span hk
  rcases f.levelAt_cases with ⟨up, span, level⟩ | ⟨down, span, level⟩
  · have : (f.target - f.start : Int) = f.span := by omega
    rw [this, whole, level]
    omega
  · have : (f.target - f.start : Int) = -f.span := by omega
    rw [this, Int.neg_mul, Int.neg_tdiv, whole, level]
    omega

theorem Fade.levelAt_zero (f : Fade) : f.levelAt 0 = f.start := by
  simp [Fade.levelAt]

theorem Fade.levelAt_steps {f : Fade} (h : 1 ≤ f.steps) : f.levelAt f.steps = f.target := by
  have all := Fade.covered_steps h
  rcases f.levelAt_cases with ⟨up, span, level⟩ | ⟨down, span, level⟩ <;> rw [level] <;> omega

/-- A fade that has a way to go is not at its target before step N. -/
theorem Fade.levelAt_ne_target {f : Fade} {k : Nat} (hm : f.start ≠ f.target) (hk : k < f.steps) :
    f.levelAt k ≠ f.target := by
  have short : f.covered k < f.span := Fade.covered_lt_span (by unfold Fade.span; omega) hk
  rcases f.levelAt_cases with ⟨up, span, level⟩ | ⟨down, span, level⟩ <;> rw [level] <;> omega

/-- A fade goes one way only, from its start to its target. -/
theorem Fade.levelAt_monotone {f : Fade} {j k : Nat} (h : j ≤ k) :
    (f.start ≤ f.target → f.levelAt j ≤ f.levelAt k) ∧ (f.target ≤ f.start → f.levelAt k ≤ f.levelAt j) := by
  have more := f.covered_mono h
  rcases f.levelAt_cases with ⟨up, span, level⟩ | ⟨down, span, level⟩ <;> rw [level, level]
  · have : f.target ≤ f.start → f.covered k ≤ f.covered j := fun h => by
      have none : f.span = 0 := by omega
      simp [Fade.covered, none]
    omega
  · omega

/-! ## Fades shorter and longer than their steps -/

/-- A function that gains less than `n` in `n` steps has a step with no gain. -/
theorem exists_step_without_gain {g : Nat → Nat} {n : Nat} (h : g n < g 0 + n) : ∃ k < n, g (k + 1) ≤ g k := by
  by_contra! gains
  have least : ∀ k ≤ n, g 0 + k ≤ g k := fun k => by
    induction k with
    | zero => exact fun _ => Nat.le_refl _
    | succ k ih =>
      intro hk
      have := ih (by omega)
      have := gains k (by omega)
      omega
  have := least n (Nat.le_refl _)
  omega

/-- A function that gains more than `n` in `n` steps has a step with a gain above one. -/
theorem exists_step_above_one {g : Nat → Nat} {n : Nat} (h : g 0 + n < g n) : ∃ k < n, g k + 1 < g (k + 1) := by
  by_contra! gains
  have most : ∀ k ≤ n, g k ≤ g 0 + k := fun k => by
    induction k with
    | zero => exact fun _ => Nat.le_refl _
    | succ k ih =>
      intro hk
      have := ih (by omega)
      have := gains k (by omega)
      omega
  have := most n (Nat.le_refl _)
  omega

/-- A fade with a span below N has a step that leaves its level unchanged. -/
theorem Fade.exists_level_unchanged {f : Fade} (h : f.span < f.steps) :
    ∃ k < f.steps, f.levelAt (k + 1) = f.levelAt k := by
  obtain ⟨k, hk, gain⟩ : ∃ k < f.steps, f.covered (k + 1) ≤ f.covered k :=
    exists_step_without_gain (by rw [Fade.covered_steps (by omega), Fade.covered_zero]; omega)
  have same : f.covered (k + 1) = f.covered k := Nat.le_antisymm gain (f.covered_mono (by omega))
  refine ⟨k, hk, ?_⟩
  rcases f.levelAt_cases with ⟨-, -, level⟩ | ⟨-, -, level⟩ <;> rw [level, level, same]

/-- A fade with a span above N has a step that moves its level by more than one. -/
theorem Fade.exists_level_above_one {f : Fade} (hn : 1 ≤ f.steps) (h : f.steps < f.span) :
    ∃ k < f.steps, f.levelAt k + 1 < f.levelAt (k + 1) ∨ f.levelAt (k + 1) + 1 < f.levelAt k := by
  obtain ⟨k, hk, gain⟩ : ∃ k < f.steps, f.covered k + 1 < f.covered (k + 1) :=
    exists_step_above_one (by rw [Fade.covered_steps hn, Fade.covered_zero]; omega)
  have part := Fade.covered_le_span (f := f) (k := k + 1) hk
  refine ⟨k, hk, ?_⟩
  rcases f.levelAt_cases with ⟨up, span, level⟩ | ⟨down, span, level⟩ <;> rw [level, level] <;> omega

/-- Settles O26: a tick takes each circuit's fade step, and the level of a step is the start moved by `Fade.covered`, which
grows from 0 to the span over the N steps. -/
theorem fadesFollowTheirLine : Obligations.FadesFollowTheirLine := by
  refine ⟨fun s h => ⟨_, tick_running h, fun c => (tick_circuit s c).2⟩, fun c f h hk => ?_, fun c f h hk => ?_,
    fun f hn => ⟨f.levelAt_zero, Fade.levelAt_steps hn, fun k => Fade.levelAt_ne_target, fun h => ?_, fun h => ?_,
      fun j k hjk hk => ?_⟩⟩
  · rw [Circuit.fadeStep_of_running h hk]
    exact ⟨by simpa using Fade.levelAt_eq_tdiv (Nat.le_of_lt hk), rfl⟩
  · rw [Circuit.fadeStep_of_last h hk]
    exact ⟨rfl, rfl⟩
  · exact Fade.exists_level_unchanged (by unfold Fade.span; omega)
  · exact Fade.exists_level_above_one hn (by unfold Fade.span; omega)
  · obtain ⟨low, high⟩ := Fade.levelAt_between hk
    exact ⟨low, high, Fade.levelAt_monotone hjk⟩

end Sys2Proof.Machine

/-! PROOFS. The accumulator of a ramp over its ticks (R126), and what a ramp's step does to one circuit (R127). -/

namespace Sys2Proof.Machine

/-! ## The accumulator -/

/-- A tick shares accumulator and rate out between its step, in fiftieths, and the accumulator it leaves (R126). -/
theorem Ramp.step_add_advance (r : Ramp) : 50 * r.step + r.advance.accumulator = r.accumulator + r.rate :=
  Nat.div_add_mod _ _

@[simp] theorem Ramp.advance_rate (r : Ramp) : r.advance.rate = r.rate := rfl

theorem Ramp.advance_accumulator_lt (r : Ramp) : r.advance.accumulator < 50 := Nat.mod_lt _ (by decide)

@[simp] theorem Ramp.iterate_advance_rate (r : Ramp) (k : Nat) : (Ramp.advance^[k] r).rate = r.rate := by
  induction k with
  | zero => rfl
  | succ k ih => rw [Function.iterate_succ_apply', Ramp.advance_rate, ih]

/-- After `k` ticks the accumulator holds what `k` times the rate leaves over (R126). -/
theorem Ramp.iterate_advance_accumulator {r : Ramp} (h : r.accumulator < 50) (k : Nat) :
    (Ramp.advance^[k] r).accumulator = (r.accumulator + k * r.rate) % 50 := by
  induction k with
  | zero => simpa using (Nat.mod_eq_of_lt h).symm
  | succ k ih =>
    rw [Function.iterate_succ_apply', Ramp.advance, Ramp.iterate_advance_rate]
    dsimp only
    rw [ih, Nat.mod_add_mod, Nat.add_one_mul, Nat.add_assoc]

theorem Ramp.iterate_advance_step {r : Ramp} (h : r.accumulator < 50) (k : Nat) :
    (Ramp.advance^[k] r).step = ((r.accumulator + k * r.rate) % 50 + r.rate) / 50 := by
  rw [Ramp.step, Ramp.iterate_advance_accumulator h, Ramp.iterate_advance_rate]

/-- Over `n` ticks nothing of the rate is lost: it is in the steps or still in the accumulator (R126). -/
theorem Ramp.sum_steps_add_accumulator (r : Ramp) (n : Nat) :
    50 * ((List.range n).map fun k => (Ramp.advance^[k] r).step).sum + (Ramp.advance^[n] r).accumulator =
      r.accumulator + n * r.rate := by
  induction n with
  | zero => simp
  | succ n ih =>
    have tick := (Ramp.advance^[n] r).step_add_advance
    rw [Ramp.iterate_advance_rate] at tick
    rw [List.range_succ, List.map_append, List.sum_append, Function.iterate_succ_apply', Nat.add_one_mul n]
    simp only [List.map_cons, List.map_nil, List.sum_singleton]
    omega

/-- The steps of 50 ticks in a row add up to the rate (R126). -/
theorem Ramp.sum_fifty_steps {r : Ramp} (h : r.accumulator < 50) :
    ((List.range 50).map fun k => (Ramp.advance^[k] r).step).sum = r.rate := by
  have total := r.sum_steps_add_accumulator 50
  rw [Ramp.iterate_advance_accumulator h] at total
  omega

/-! ## A ramp's step on a circuit -/

theorem stepRamp_of_zero {r : Ramp} (s : State) (h : r.step = 0) : stepRamp s r = s := if_pos h

theorem stepRamp_get {r : Ramp} (s : State) (h : r.step ≠ 0) (n : CircuitId) :
    (stepRamp s r).circuits.get n = r.moveCircuit r.step (s.settings.circuits.get n) (s.circuits.get n) := by
  rw [stepRamp, if_neg h, changeCircuits_get]

section
variable {r : Ramp} {step : Nat} {cs : CircuitSettings} {c : Circuit}

/-- Where the effective claim's level changes, L takes it and the fade ends (R104, R127). -/
theorem Ramp.moveCircuit_of_changed {cl : Claim} (h : c.claims.head? = some cl)
    (hm : (r.moveClaim step (rampLimit cs) cl).level ≠ cl.level) :
    r.moveCircuit step cs c = { c with
      claims := c.claims.map (r.moveClaim step (rampLimit cs))
      level := (r.moveClaim step (rampLimit cs) cl).level
      fade := none } := by
  obtain ⟨rest, split⟩ := List.head?_eq_some_iff.mp h
  simp [Ramp.moveCircuit, split, hm.symm]

/-- Where no claim is effective, or its level stays, only the claims move (R104, R127). -/
theorem Ramp.moveCircuit_of_unchanged
    (h : ∀ cl, c.claims.head? = some cl → (r.moveClaim step (rampLimit cs) cl).level = cl.level) :
    r.moveCircuit step cs c = { c with claims := c.claims.map (r.moveClaim step (rampLimit cs)) } := by
  cases split : c.claims with
  | nil => simp [Ramp.moveCircuit, split]
  | cons cl rest => simp [Ramp.moveCircuit, split, h cl (by simp [split])]

end

/-- A step down stops at 0 (R127). -/
theorem rampLevel_down (step limit level : Nat) :
    rampLevel .down step limit level = (max ((level : Int) - step) 0).toNat := by
  show level - step = _
  omega

/-- Each ramp of the table takes its step, in order, and only then its accumulator moves on (R123, R126, R128). -/
theorem stepRamps_eq (s : State) : stepRamps s = { s.ramps.foldl stepRamp s with ramps := s.ramps.map Ramp.advance } := by
  unfold stepRamps
  rw [foldl_stepRamp_frame]

/-- Settles O27: the rate is shared out by `Ramp.step_add_advance`, and a step is `Ramp.moveCircuit` on every circuit. -/
theorem rampStepsAddUpToTheRate : Obligations.RampStepsAddUpToTheRate := by
  refine ⟨fun s h => ⟨_, tick_running h, ?_, fun c => (tick_circuit s c).1⟩, fun r => ⟨rfl, rfl⟩,
    fun r hr => ⟨Ramp.sum_fifty_steps hr, fun h50 k => ?_, fun h1000 k => ?_, fun h10 h0 k => ?_⟩,
    fun s r => stepRamp_of_zero s, fun s r hs => ⟨stepRamp_frame s r, fun n => ?_⟩, stepRamps_eq⟩
  · rw [serve_ramps, runTick_frame]
  · rw [Ramp.iterate_advance_step hr, h50]
    omega
  · rw [Ramp.iterate_advance_step hr, h1000]
    omega
  · rw [Ramp.iterate_advance_step hr, h10, h0]
    split <;> omega
  · intro old limit moved
    have moves : r.moveClaim r.step (rampLimit (s.settings.circuits.get n)) = moved := by
      funext cl
      show _ = if _ then _ else _
      unfold Ramp.moveClaim Ramp.moves
      cases r.direction with
      | up => simp only [Bool.and_eq_true, decide_eq_true_eq]; rfl
      | down => simp only [Bool.and_eq_true, decide_eq_true_eq, rampLevel_down]
    rw [stepRamp_get s hs, ← moves]
    exact ⟨fun cl => Ramp.moveCircuit_of_changed, Ramp.moveCircuit_of_unchanged⟩

end Sys2Proof.Machine

/-! PROOFS. The rounding of the two dimming laws (R132). -/

namespace Sys2Proof.Machine

/-- Half a unit added before the division rounds a fraction half up. -/
theorem natCast_div_eq_floor_add_half (n d : Nat) (hd : d ≠ 0) :
    (((n * 2 + d) / (2 * d) : Nat) : Int) = ⌊(n : ℚ) / d + 1 / 2⌋ := by
  have hq : (d : ℚ) ≠ 0 := Nat.cast_ne_zero.mpr hd
  have sum : (n : ℚ) / d + 1 / 2 = ((n * 2 + d : Nat) : ℚ) / ((2 * d : Nat) : ℚ) := by
    push_cast
    field_simp
  rw [sum, Rat.floor_natCast_div_natCast, Int.ofNat_ediv_ofNat]

theorem linearOutput_eq_floor (lc : Nat) : (linearOutput lc : Int) = ⌊(lc : ℚ) * 255 / 1000 + 1 / 2⌋ := by
  simpa [linearOutput] using natCast_div_eq_floor_add_half (lc * 255) 1000 (by decide)

theorem squareOutput_eq_floor (lc : Nat) : (squareOutput lc : Int) = ⌊(lc : ℚ) ^ 2 * 255 / 1000000 + 1 / 2⌋ := by
  simpa [squareOutput, sq] using natCast_div_eq_floor_add_half (lc * lc * 255) 1000000 (by decide)

theorem linearOutput_mono {a b : Nat} (h : a ≤ b) : linearOutput a ≤ linearOutput b := by
  unfold linearOutput
  omega

theorem squareOutput_mono {a b : Nat} (h : a ≤ b) : squareOutput a ≤ squareOutput b := by
  have squares : a * a ≤ b * b := Nat.mul_le_mul h h
  unfold squareOutput
  omega

/-- After a tick the output value follows the circuit's law at the level the tick leaves (R123, R132, R134). -/
theorem tick_output (s : State) (c : CircuitId) :
    let x := (serve (runTick s)).circuits.get c
    x.output = outputOf (s.settings.circuits.get c) x.level x.relay.state := by
  intro x
  simp only [x, serve_circuits, runTick_circuit]
  rfl

theorem outputOf_linear {cs : CircuitSettings} (h : cs.law = .linear) (level : Nat) (relay : Bool) :
    outputOf cs level relay = linearOutput (clampLevel cs level) := by
  simp [outputOf, h]

theorem outputOf_square {cs : CircuitSettings} (h : cs.law = .square) (level : Nat) (relay : Bool) :
    outputOf cs level relay = squareOutput (clampLevel cs level) := by
  simp [outputOf, h]

/-- Settles O28: a tick's outputs are those of the laws, and each law is its fraction rounded half up. -/
theorem dimmingLawsRoundHalfUp : Obligations.DimmingLawsRoundHalfUp := by
  refine ⟨fun s h => ⟨_, tick_running h, fun c => ⟨fun linear => ?_, fun square => ?_⟩⟩, rfl, rfl, rfl, rfl,
    fun lc => ⟨linearOutput_eq_floor lc, squareOutput_eq_floor lc⟩, fun a b h => ⟨linearOutput_mono h, squareOutput_mono h⟩⟩
  · rw [tick_output, outputOf_linear linear, linearOutput_eq_floor]
  · rw [tick_output, outputOf_square square, squareOutput_eq_floor]

end Sys2Proof.Machine

/-! PROOFS. The annunciators: what makes an output conduct, and what changes an enable (R153, R154). -/

namespace Sys2Proof.Machine

/-! ## Signals (R154) -/

theorem StationStateName.lost_iff (n : StationStateName) : n.lost = true ↔ n = .missing ∨ n = .mismatch := by
  cases n <;> decide

/-- Egress-active is true exactly while the first claim of some circuit's list has class EGRESS (R113). -/
theorem egressActive_iff (s : State) :
    egressActive s = true ↔ ∃ c cl, (s.circuits.get c).claims.head? = some cl ∧ cl.cls = .egress := by
  unfold egressActive
  rw [Table.any_items]
  refine exists_congr fun c => ?_
  cases (s.circuits.get c).claims <;> simp

theorem annunciatorSignal_zoneHeld (s : State) (z : ZoneId) :
    annunciatorSignal s (.zoneHeld z) = true ↔ (s.zones.get z).state ≠ .free := decide_eq_true_iff

theorem annunciatorSignal_mainsLocked (s : State) :
    annunciatorSignal s .mainsLocked = true ↔ s.mains.state = .locked := decide_eq_true_iff

theorem annunciatorSignal_stationFault (s : State) :
    annunciatorSignal s .stationFault = true ↔
      ∃ x, (s.stations.get x).state = .missing ∨ (s.stations.get x).state = .mismatch :=
  Table.any_items.trans (exists_congr fun _ => StationStateName.lost_iff _)

theorem annunciatorSignal_ladderFault (s : State) :
    annunciatorSignal s .ladderFault = true ↔ ∃ ch, (s.ladders.get ch).state = .fault :=
  Table.any_items.trans (exists_congr fun _ => decide_eq_true_iff)

theorem annunciatorOutput_iff (s : State) (a : AnnunciatorId) :
    annunciatorOutput s a = true ↔ s.power = .running ∧ s.enables.getLsbD a.val = true ∧
      annunciatorSignal s (s.settings.annunciators.get a) = true := by
  simp [annunciatorOutput, and_assoc]

/-! ## What leaves the enables alone -/

theorem OnlyZones.enables {s t : State} (h : OnlyZones s t) : t.enables = s.enables := by
  unfold OnlyZones at h
  rw [h]

@[simp] theorem changeMains_enables (m : Mains) (s : State) : (changeMains m s).enables = s.enables :=
  (changeMains_frame m s).enables

@[simp] theorem setSilence_enables (t : SilenceTimer) (s : State) : (setSilence t s).enables = s.enables :=
  (setSilence_frame t s).enables

@[simp] theorem enqueue_enables (e : Entry) (s : State) : (enqueue e s).enables = s.enables := by
  unfold enqueue
  split <;> rfl

@[simp] theorem receiveEntry_enables (e : Entry) (s : State) : (receiveEntry e s).enables = s.enables := by
  cases e <;> simp [receiveEntry]

/-- The link keeps the enables through the receipt, the taking and the answering of a request (R173, R176, R180). -/
theorem enables_keptByLink (v : BitVec 8) : KeptByLink fun t => t.enables = v where
  serve s h := (serve_enables s).trans h
  receive e s h := (receiveEntry_enables e s).trans h
  unqueue _ h := h
  reply _ _ h := h

/-- A request that is carried out without a change of an enable leaves all eight as they stand. -/
theorem request_enables {k : Byte} {carry : List Byte → State → Answer} {p : List Byte} {s t : State}
    (kept : ∀ u, (carry p u).state.enables = u.enables) (h : request k carry p s = .next t) : t.enables = s.enables :=
  request_gives (enables_keptByLink s.enables) rfl (fun u hu => (kept u).trans hu) t h

/-! ## PUT_GENERAL (R185) -/

/-- The new start values are stored, and no enable that stands follows them (R153). -/
theorem writeGeneral_enables (g : GeneralSettings) (s : State) : (writeGeneral g s).enables = s.enables := by
  have tracked (u : State) : (if s.settings.general.nominal = g.nominal then u else renominate u).enables = u.enables := by
    split
    · rfl
    · exact changeMains_enables _ _
  unfold writeGeneral
  dsimp only
  split
  · exact tracked _
  · exact (setSilence_enables _ _).trans (tracked _)

theorem carryPutGeneral_enables (p : List Byte) (s : State) : (carryPutGeneral p s).state.enables = s.enables := by
  unfold carryPutGeneral
  split
  · rfl
  · split
    · rfl
    · split
      · rfl
      · exact writeGeneral_enables _ _

/-! ## The warm restart (R198) -/

theorem restartZone_frame (s : State) (z : ZoneId) : OnlyZones s (restartZone s z) := by
  unfold restartZone
  dsimp only
  split
  · rfl
  · exact enterZone_frame _ _ _

theorem restartZones_frame (l : List ZoneId) (s : State) : OnlyZones s (l.foldl restartZone s) :=
  foldl_frame OnlyZones.refl OnlyZones.trans restartZone_frame l s

theorem beginTurn_enables (a : Option StationId) (s : State) : (beginTurn a s).enables = s.enables := rfl

theorem warmRestart_enables (s : State) : (warmRestart s).enables = s.enables := by
  unfold warmRestart
  dsimp only
  rw [beginTurn_enables, (restartZones_frame _ _).enables]

theorem carryRestart_enables (p : List Byte) (s : State) : (carryRestart p s).state.enables = s.enables := by
  unfold carryRestart
  split
  · rfl
  · split
    · rfl
    · exact warmRestart_enables s

/-! ## Starts (R195) -/

/-- A start gives each enable its start value in the configuration loaded: the image's, or the default one (R153, R195). -/
theorem loadAndStart_enables (causes : ResetCauses) (s : State) :
    (loadAndStart causes s).enables = (s.image.getD Settings.defaults).general.enableStart := by
  unfold loadAndStart
  cases s.image <;> rfl

theorem powerOn_next (s : State) : exec .powerOn s = .next (powerUp s) := rfl

theorem resetLine_powered {s : State} (h : s.power ≠ .unpowered) : exec .resetLine s = .next (resetByLine s) := by
  show execResetLine s = _
  unfold execResetLine
  split
  · rfl
  · rfl
  · next unpowered => exact absurd unpowered h

theorem start_enables {c : Instr} {s t : State} (start : c = .powerOn ∨ (c = .resetLine ∧ s.power ≠ .unpowered))
    (h : exec c s = .next t) : t.enables = (s.image.getD Settings.defaults).general.enableStart := by
  have given (causes : ResetCauses) : Gives (fun u => u.enables = (s.image.getD Settings.defaults).general.enableStart)
      (.next (loadAndStart causes s)) := Gives.next (loadAndStart_enables causes s)
  obtain rfl | ⟨rfl, powered⟩ := start
  · exact given _ t ((powerOn_next s).symm.trans h)
  · exact given _ t ((resetLine_powered powered).symm.trans h)

/-! ## The request -/

/-- SET_ANNUNCIATOR at the head of the queue is answered DONE with all eight enables replaced; no save is asked about. -/
theorem setAnnunciator_headed {v : Byte} {s : State} (h : RequestHeads 0x13 [v] s) :
    exec (.setAnnunciator [v]) s = .next (replied 0x13 .done [] { s.taken with enables := v }) := request_headed h

/-- Settles O36, by the signal of each function and by what a start, a PUT_GENERAL and a warm restart make of the
enables. -/
theorem annunciatorEnablesFollowTheHost : Obligations.AnnunciatorEnablesFollowTheHost := by
  intro s
  refine ⟨fun a => (annunciatorOutput_iff s a).trans (and_congr_right' (and_congr_right' ?signal)),
    fun v => setAnnunciator_headed, fun c t start h => ?starts,
    fun p t => request_enables (carryPutGeneral_enables p), fun p t => request_enables (carryRestart_enables p)⟩
  case signal =>
    cases s.settings.annunciators.get a with
    | plain => exact iff_of_true rfl trivial
    | zoneHeld z => exact annunciatorSignal_zoneHeld s z
    | flag f => exact Iff.rfl
    | egressActive => exact egressActive_iff s
    | mainsLocked => exact annunciatorSignal_mainsLocked s
    | stationFault => exact annunciatorSignal_stationFault s
    | ladderFault => exact annunciatorSignal_ladderFault s
  case starts =>
    rw [start_enables start h]
    cases s.image <;> rfl

end Sys2Proof.Machine

/-! PROOFS. The pieces of which every command is made, and that a property which the pieces keep is kept by every command: one
passage through the requests, the bus, the channels, the zones and the writes for each of the invariants but the zones' own. -/

namespace Sys2Proof.Machine

/-! ## What no invariant but the zones' own reads -/

/-- Nothing but what no invariant of O52 to O55 and O57 to O59 reads. -/
def OnlyQuiet (s t : State) : Prop :=
  t = { s with
    power := t.power, saving := t.saving, causes := t.causes, inputs := t.inputs, stations := t.stations, turn := t.turn,
    frameCount := t.frameCount, refresh := t.refresh, flags := t.flags, enables := t.enables, framer := t.framer,
    replySlot := t.replySlot, carrying := t.carrying, ahead := t.ahead, sending := t.sending, silence := t.silence,
    draws := t.draws }

/-- A circuit that stays as it is, or loses claims and heads for the target it has then (R102, R103, R105). -/
def Circuit.Loses (cs : CircuitSettings) (c d : Circuit) : Prop :=
  d = c ∨ ∃ l fade, l.Sublist c.claims ∧ d = { c with claims := l }.retarget cs fade

theorem Circuit.withdraw_loses (cs : CircuitSettings) (k : Key) (fade : Nat) (c : Circuit) :
    c.Loses cs (c.withdraw cs k fade) := by
  unfold Circuit.withdraw
  split
  · exact .inr ⟨_, _, List.filter_sublist, rfl⟩
  · exact .inl rfl

theorem Circuit.clearZone_loses (cs : CircuitSettings) (z : ZoneId) (fade : Nat) (c : Circuit) :
    c.Loses cs (c.clearZone cs z fade) := by
  unfold Circuit.clearZone
  split
  · exact .inr ⟨_, _, List.filter_sublist, rfl⟩
  · exact .inl rfl

/-- A property that every piece of a command keeps which may come between two bindings. A level placed may be taken to be in
range where levels and settings are. -/
structure KeptByPieces (P : State → Prop) : Prop where
  quiet : ∀ {s t : State}, P s → OnlyQuiet s t → P t
  raise : ∀ r s, P s → P (raise r s)
  /-- The report at the head leaves the queue (R180). -/
  unreport : ∀ s, P s → P { s with reports := s.reports.tail }
  counted : ∀ s, P s → P { s with lost := 0 }
  enqueue : ∀ e s, P s → P (enqueue e s)
  unqueue : ∀ s, P s → P { s with requests := s.requests.tail }
  image : ∀ v s, P s → v = none ∨ v = some s.settings → P { s with image := v }
  enter : ∀ z n s, P s → n = .held ∨ n = .free ∨ (s.zones.get z).state ≠ .free → P (enterZone z n s)
  forced : ∀ z f s, P s → P (s.setZone z { s.zones.get z with force := f })
  ramps : ∀ w s, P s → P (endRamps w s)
  requestRamp : ∀ r s, P s → r.accumulator = 0 → (r.cls = .loc → (s.zones.get r.zone).state = .free) → P (requestRamp r s)
  ladder : ∀ ch v s, P s → v.decode = (s.ladders.get ch).decode ∨ v.decode ≤ 6 → P (s.setLadder ch v)
  place : ∀ c n fade s, P s → n.placedAs = true → (LevelsFollowTargets s → n.level ≤ 1000) → P (place c n fade s)
  lose : ∀ circuits s, P s → (∀ n, (s.circuits.get n).Loses (s.settings.circuits.get n) (circuits.get n)) →
    P { s with circuits := circuits }
  /-- The tracker changes; on leaving LOCKED the changes that wait at a crossing are applied (R162). -/
  mains : ∀ m s, P s → P { s with
    mains := m, circuits := if s.mains.state = .locked ∧ m.state ≠ .locked then (applyCrossings s).circuits else s.circuits }
  crossings : ∀ s, P s → P (applyCrossings s)
  dwell : ∀ c s, P s → (s.circuits.get c).relay.dwellRunning = true → P (s.setCircuit c { s.circuits.get c with
    relay := (s.circuits.get c).relay.endDwell (s.settings.circuits.get c) (mainsLocked s) })
  tick : ∀ s, P s → P (levelTick s)
  writeScene : ∀ sc c s, P s → Scene.ok { c with entries := sortEntries c.entries } = true →
    hasRoom sc c.entries.length s = true → P (writeScene sc c s)
  writeCircuit : ∀ c cs s, P s → cs.ok = true → P (writeCircuit c cs s)
  storeZone : ∀ z zs s, P s → zs.ok = true → P (s.setSettings { s.settings with zones := s.settings.zones.set z zs })
  writeAnnunciator : ∀ a f s, P s → P (writeAnnunciator a f s)
  storeGeneral : ∀ g s, P s → g.silenceTimeout ≤ 255 → P (s.setSettings { s.settings with general := g })

/-- A property that the pieces of the configuration writes and the starts keep too. -/
structure KeptByWrites (P : State → Prop) : Prop extends KeptByPieces P where
  passed : ∀ s, P s → P (passTime s)
  storeInput : ∀ i cs s, P s → cs.ok i = true → inputDenied i cs s = false → P (storeInput i cs s)
  storeLadder : ∀ ch cs s, P s → cs.ok = true → P (storeLadder ch cs s)
  storeStation : ∀ a cs s, P s → cs.ok = true → P (storeStation a cs s)
  storeBinding : ∀ b x s, P s → (∀ y, x = some y → y.action.ok = true) →
    (∀ y, x = some y → y.cls = .egress → egressAllowed y.source s = true) →
    P (s.setSettings { s.settings with bindings := s.settings.bindings.set b x })
  restart : ∀ s, P s → P (warmRestart s)
  started : ∀ causes s, P s → P (loadAndStart causes s)
  unpowered : ∀ s, P s → P (losePower s)

variable {P : State → Prop}

/-! ## From the pieces to what comes between two bindings -/

theorem reevaluate_kept (K : KeptByPieces P) (z : ZoneId) (s : State) (h : P s) : P (reevaluate z s) := by
  unfold reevaluate
  split
  · next held _ => exact K.enter _ _ _ h (.inr (.inr (by rw [held]; simp)))
  all_goals first | exact K.enter _ _ _ h (.inl rfl) | exact h

theorem reevaluations_kept (K : KeptByPieces P) (p : ZoneId → Bool) (s : State) (h : P s) : P (reevaluateWhere p s) :=
  reevaluateWhere_kept (reevaluate_kept K) p s h

theorem serve_kept (K : KeptByPieces P) (s : State) (h : P s) : P (serve s) := by
  rcases serve_cases s with ⟨_, _, e⟩ | ⟨_, _, _, e⟩ | ⟨_, rest, _, _, waiting, _, e⟩ | ⟨_, _, _, e⟩
  · rwa [e]
  · rw [e]
    exact K.quiet h rfl
  · have popped := K.unreport s h
    rw [waiting] at popped
    rw [e]
    exact K.quiet popped rfl
  · rwa [e]

theorem setSilence_kept (K : KeptByPieces P) (t : SilenceTimer) (s : State) (h : P s) : P (setSilence t s) := by
  have stored : P { s with silence := t } := K.quiet h rfl
  unfold setSilence
  dsimp only
  split
  · exact stored
  · exact reevaluations_kept K _ _ stored

/-- A change of the tracker, in its order: the record with the changes at a crossing applied where it leaves LOCKED, the report
of a changed state, the zones told of a change into or out of LOCKED (R162, R168, R170). -/
theorem changeMains_stages (m : Mains) (s : State) : changeMains m s =
    let u : State := { s with
      mains := m, circuits := if s.mains.state = .locked ∧ m.state ≠ .locked then (applyCrossings s).circuits else s.circuits }
    let told := if s.mains.state = m.state then u else raise (.mains m.state m.lastInterval) u
    if s.mains.state = .locked ↔ m.state = .locked then told else reevaluateWhere (masks s mainsBit) told := by
  have stored : (if s.mains.state = .locked ∧ m.state ≠ .locked then applyCrossings { s with mains := m }
      else { s with mains := m }) = { s with
        mains := m
        circuits := if s.mains.state = .locked ∧ m.state ≠ .locked then (applyCrossings s).circuits else s.circuits } := by
    split <;> rfl
  unfold changeMains
  dsimp only
  rw [stored]
  congr 2
  unfold masks
  split <;> simp

theorem changeMains_kept (K : KeptByPieces P) (m : Mains) (s : State) (h : P s) : P (changeMains m s) := by
  have stored := K.mains m s h
  rw [changeMains_stages]
  generalize ({ s with
    mains := m
    circuits := if s.mains.state = .locked ∧ m.state ≠ .locked then (applyCrossings s).circuits else s.circuits } : State) = u
    at stored
  have told : P (if s.mains.state = m.state then u else raise (.mains m.state m.lastInterval) u) := by
    split
    · exact stored
    · exact K.raise _ _ stored
  dsimp only
  split
  · exact told
  · exact reevaluations_kept K _ _ told

theorem receiveEntry_kept (K : KeptByPieces P) (e : Entry) (s : State) (h : P s) : P (receiveEntry e s) := by
  cases e with
  | request k p => exact K.enqueue _ _ (setSilence_kept K _ _ h)
  | damaged => exact K.enqueue _ _ h

theorem KeptByPieces.link (K : KeptByPieces P) : KeptByLink P where
  serve := serve_kept K
  receive := receiveEntry_kept K
  unqueue s h := K.quiet (K.unqueue s h) rfl
  reply _ _ h := K.quiet h rfl

theorem changeFlags_kept (K : KeptByPieces P) (v : BitVec 8) (s : State) (h : P s) : P (changeFlags v s) :=
  reevaluations_kept K _ _ (K.quiet h rfl)

theorem forceZone_kept (K : KeptByPieces P) (z : ZoneId) (s : State) (h : P s) : P (forceZone z s) := by
  unfold forceZone
  split
  · exact h
  · exact reevaluate_kept K _ _ (K.forced _ _ _ h)

/-- A release request leads to HELD, to FREE, or out of a state other than FREE (R145). -/
theorem releaseTo_cases (zs : ZoneSettings) (c : Bool) (n : ZoneStateName) :
    releaseTo zs c n = .held ∨ releaseTo zs c n = .free ∨ n ≠ .free := by
  cases n <;> simp [releaseTo]

theorem releaseZone_kept (K : KeptByPieces P) (z : ZoneId) (s : State) (h : P s) : P (releaseZone z s) := by
  have cleared := K.forced z false s h
  unfold releaseZone
  dsimp only
  split
  · exact cleared
  · exact K.enter _ _ _ cleared (releaseTo_cases _ _ _)

theorem OnlyClaims.settings {s t : State} (h : OnlyClaims s t) : t.settings = s.settings := by
  unfold OnlyClaims at h
  rw [h]

theorem place_settings (c : CircuitId) (n : Claim) (fade : Nat) (s : State) : (place c n fade s).settings = s.settings :=
  (place_frame c n fade s).settings

/-- A scene's claims, of whatever level the scene gives them where the settings are in range. -/
theorem placeScene_kept (K : KeptByPieces P) (sc : SceneId) (cls : ClaimClass) (zone : Option ZoneId) (fade : Option Nat)
    (s : State) (h : P s)
    (owned : ∀ level, Claim.placedAs { owner := .scene sc, cls := cls, level := level, zone := zone } = true) :
    P (placeScene sc cls zone fade s) := by
  have key : ∀ (l : List SceneEntry) (u : State), (∀ e ∈ l, e ∈ (s.settings.scenes.get sc).entries) →
      u.settings = s.settings → P u → P (l.foldl (fun u e => place e.circuit
        { owner := .scene sc, cls := cls, level := e.level, zone := zone }
        (fade.getD (s.settings.scenes.get sc).onFade) u) u) := by
    intro l
    induction l with
    | nil => exact fun _ _ _ h => h
    | cons e l ih =>
      intro u mem same h
      refine ih _ (fun e he => mem e (List.mem_cons_of_mem _ he)) ?_ (K.place _ _ _ _ h (owned _) fun ranged => ?_)
      · exact (place_settings _ _ _ _).trans same
      · have ok := ranged.settings.1.scenes sc
        simp only [same, Scene.ok, entriesOk, Bool.and_eq_true, List.all_eq_true, decide_eq_true_eq] at ok
        exact ok.2.1.2 e (mem e List.mem_cons_self)
  exact key _ s (fun _ he => he) rfl h

theorem withdraw_kept (K : KeptByPieces P) (c : CircuitId) (k : Key) (fade : Nat) (s : State) (h : P s) :
    P (withdraw c k fade s) := by
  refine K.lose _ s h fun n => ?_
  rw [Table.get_set]
  split
  · next e => subst e; exact Circuit.withdraw_loses _ _ _ _
  · exact .inl rfl

theorem withdrawEverywhere_kept (K : KeptByPieces P) (k : Key) (fade : Nat) (s : State) (h : P s) :
    P (withdrawEverywhere k fade s) := by
  refine K.lose _ s h fun n => ?_
  rw [Table.get_zipWith]
  exact Circuit.withdraw_loses _ _ _ _

theorem clearZone_kept (K : KeptByPieces P) (z : ZoneId) (fade : Option Nat) (s : State) (h : P s) :
    P (clearZone z fade s) := by
  refine K.lose _ s h fun n => ?_
  rw [Table.get_zipWith]
  exact Circuit.clearZone_loses _ _ _ _

theorem enterStation_kept (K : KeptByPieces P) (a : StationId) (v : StationState) (s : State) (h : P s) :
    P (enterStation a v s) := by
  have stored : P (s.setStation a v) := K.quiet h rfl
  unfold enterStation
  split
  · exact stored
  · exact K.raise _ _ stored

theorem ladderMadeKnown_kept (K : KeptByPieces P) (ch : ChannelId) (n : ChannelState) (s : State) (h : P s) :
    P (ladderMadeKnown ch n s) := reevaluate_kept K _ _ (K.raise _ _ h)

theorem renominate_kept (K : KeptByPieces P) (s : State) (h : P s) : P (renominate s) := changeMains_kept K _ _ h

theorem writeGeneral_kept (K : KeptByPieces P) (g : GeneralSettings) (s : State) (h : P s) (hg : g.silenceTimeout ≤ 255) :
    P (writeGeneral g s) := by
  have stored := K.storeGeneral g s h hg
  have tracked : P (if s.settings.general.nominal = g.nominal then
      s.setSettings { s.settings with general := g } else
      renominate (s.setSettings { s.settings with general := g })) := by
    split
    · exact stored
    · exact renominate_kept K _ stored
  unfold writeGeneral
  dsimp only
  split
  · exact tracked
  · exact setSilence_kept K _ _ tracked

theorem KeptByPieces.comings (K : KeptByPieces P) : KeptByComings P where
  toKeptByLink := K.link
  drawn s h := K.quiet h rfl
  ahead _ s h := K.quiet h rfl
  counted := K.counted
  causes _ s h := K.quiet h rfl
  saving s h := K.quiet (K.image none s h (.inl rfl)) rfl
  saved v s h _ := K.raise _ _ (K.quiet (K.image (if v then some s.settings else none) s h (by cases v <;> simp)) rfl)
  enables _ s h := K.quiet h rfl
  flags := changeFlags_kept K
  force := forceZone_kept K
  released := releaseZone_kept K
  recalled sc cls fade s h hc := placeScene_kept K sc cls none fade s h fun _ => hc
  remote c cls level fade s h hc := K.place _ _ _ _ h (by simp [remoteClaim, Claim.placedAs, hc]) fun _ => Nat.min_le_right _ _
  withdrawn := withdraw_kept K
  dropped := withdrawEverywhere_kept K
  writeScene := K.writeScene
  writeCircuit := K.writeCircuit
  writeZone z zs s h ok := reevaluate_kept K _ _ (K.storeZone z zs s h ok)
  writeAnnunciator := K.writeAnnunciator
  writeGeneral := writeGeneral_kept K
  ladder ch v s h _ decode := K.ladder ch v s h decode
  ladderKnown ch v s h _ _ decode := ladderMadeKnown_kept K _ _ _ (K.ladder ch v s h (.inr (by omega)))
  station _ _ s h _ _ := K.quiet h rfl
  stationKnown a v s h := reevaluate_kept K _ _ (enterStation_kept K a v s h)
  turn _ s h := K.quiet h rfl
  mains := changeMains_kept K
  crossings s h _ := K.crossings s h
  silence := setSilence_kept K
  freed z s h _ := K.enter _ _ _ h (.inr (.inl rfl))
  dwell := K.dwell
  tick := K.tick
  framer _ s h := K.quiet h rfl
  sent s h := K.quiet h rfl

/-! ## The actions -/

theorem BindingClass.claim_ne_base (c : BindingClass) : c.claim ≠ .base := by cases c <;> simp [BindingClass.claim]

theorem actSceneOn_kept (K : KeptByPieces P) (x : Binding) (sc : SceneId) (fade : Option Nat) (s : State) (h : P s) :
    P (actSceneOn x sc fade s) :=
  placeScene_kept K _ _ _ _ _ h fun _ => by simp [Claim.placedAs, x.cls.claim_ne_base]

/-- RAISE places claims at the levels of their circuits, which are in range where levels are (R74). -/
theorem placeMissing_kept (K : KeptByPieces P) (sc : SceneId) (cls : BindingClass) (z : ZoneId) (s : State) (h : P s) :
    P (placeMissing sc cls.claim z s) := by
  refine foldl_kept (fun u e h => ?_) _ _ h
  split
  · exact h
  · exact K.place _ _ _ _ h (by simp [Claim.placedAs, cls.claim_ne_base]) fun ranged => (ranged.circuits _).level

/-- A binding that runs is of a zone that is FREE where its class is LOCAL (R64). -/
theorem free_of_not_suppressed {sup : List ZoneId} {x : Binding} {s : State} (h : suppressed sup x s = false)
    (hl : x.cls = .loc) : (s.zones.get x.zone).state = .free := by
  simpa [suppressed, hl] using (by simpa [suppressed, hl] using h : x.zone ∉ sup ∧ (s.zones.get x.zone).state = .free).2

theorem runAction_kept (K : KeptByPieces P) (sup : List ZoneId) (b : SlotId) (x : Binding) (s : State) (h : P s)
    (hb : s.settings.bindings.get b = some x) (hs : suppressed sup x s = false) : P (runAction b x s) := by
  have ramp (direction : Direction) (sc : SceneId) (u : State) (hu : P u) (hz : u.zones = s.zones) :
      P (requestRamp (rampOf b x sc direction s) u) :=
    K.requestRamp _ _ hu rfl fun hl => hz ▸ free_of_not_suppressed hs hl
  unfold runAction
  split
  · exact actSceneOn_kept K _ _ _ _ h
  · exact withdrawEverywhere_kept K _ _ _ h
  · unfold actSceneToggle
    split
    · exact withdrawEverywhere_kept K _ _ _ h
    · exact actSceneOn_kept K _ _ _ _ h
  · next level _ e =>
    refine K.place _ _ _ _ h (by simp [Claim.placedAs, x.cls.claim_ne_base]) fun ranged => ?_
    have ok := ranged.settings.1.bindings b x hb
    rw [e] at ok
    simp only [Action.ok, Bool.and_eq_true, decide_eq_true_eq] at ok
    exact ok.1
  · exact withdraw_kept K _ _ _ _ h
  · refine ramp _ _ _ (placeMissing_kept K _ _ _ _ h) ?_
    have frame := placeMissing_frame
    unfold OnlyClaims at frame
    rw [frame]
  · exact ramp _ _ _ h rfl
  · exact clearZone_kept K _ _ _ h
  · exact changeFlags_kept K _ _ h
  · exact changeFlags_kept K _ _ h
  · exact changeFlags_kept K _ _ h
  · exact forceZone_kept K _ _ h
  · exact releaseZone_kept K _ _ h
  · exact h

theorem KeptByPieces.actions (K : KeptByPieces P) : KeptByActions P where
  toKeptByComings := K.comings
  raise := K.raise
  ramps := K.ramps
  run := runAction_kept K

/-! ## The writes -/

theorem stopLadder_kept (K : KeptByPieces P) (G : KeptByGestures P) (ch : ChannelId) (s : State) (h : P s) :
    P (stopLadder ch s) := by
  have stopped := K.ladder ch LadderState.off _ (forButton_kept G.synthesized ch (s.ladders.get ch).decode s h)
    (.inr (by simp [LadderState.off]))
  unfold stopLadder
  dsimp only
  split
  · exact ladderMadeKnown_kept K _ _ _ stopped
  · exact stopped

/-- Whether a write is denied is a matter of the bindings alone (R1). -/
theorem inputDenied_congr {s t : State} (h : t.settings.bindings = s.settings.bindings) (i : InputId) (cs : InputSettings) :
    inputDenied i cs t = inputDenied i cs s := by
  unfold inputDenied sourcesEgress
  rw [h]

theorem OnlyZones.settings {s t : State} (h : OnlyZones s t) : t.settings = s.settings := by
  unfold OnlyZones at h
  rw [h]

theorem ladderMadeKnown_frame (ch : ChannelId) (n : ChannelState) (s : State) : OnlyZones s (ladderMadeKnown ch n s) :=
  (raise_frame _ _).zones.trans (reevaluate_frame _ _)

theorem stopLadder_bindings (ch : ChannelId) (s : State) :
    (stopLadder ch s).settings.bindings = s.settings.bindings := by
  have released := (forButton_frame ch (s.ladders.get ch).decode _ synthesizedRelease_frame s).bindings
  unfold stopLadder
  dsimp only
  split
  · rw [(ladderMadeKnown_frame _ _ _).settings]
    exact released
  · exact released

theorem writeInput_kept (K : KeptByWrites P) (G : KeptByGestures P) (i : InputId) (cs : InputSettings) (s : State) (h : P s)
    (ok : cs.ok i = true) (allowed : inputDenied i cs s = false) : P (writeInput i cs s) := by
  have quiet {u : State} {v : InputState} (hu : P u) : P (u.setInput i v) := K.quiet hu rfl
  have released : P (storeInput i cs (synthesizedRelease (.contact i) s)) :=
    K.storeInput _ _ _ (G.synthesized _ _ h) ok ((inputDenied_congr (synthesizedRelease_frame _ _).bindings i cs).trans allowed)
  unfold writeInput
  dsimp only
  split
  · unfold inputToLadder
    dsimp only
    split
    · exact K.ladder _ _ _ (quiet released) (.inr (by simp [LadderState.started, LadderState.off]))
    · exact quiet released
  · unfold inputToContact
    dsimp only
    split
    · next ch _ =>
      exact quiet (K.storeInput _ _ _ (stopLadder_kept K.toKeptByPieces G ch s h) ok
        ((inputDenied_congr (stopLadder_bindings ch s) i cs).trans allowed))
    · exact quiet (K.storeInput _ _ _ h ok allowed)
  · exact K.storeInput _ _ _ h ok allowed
  · unfold rewriteContact
    dsimp only
    have stored : P (storeInput i cs (if retakesGesture (s.settings.inputs.get i) cs then
        synthesizedRelease (.contact i) s else s)) := by
      split
      · exact released
      · exact K.storeInput _ _ _ h ok allowed
    generalize storeInput i cs (if retakesGesture (s.settings.inputs.get i) cs then
        synthesizedRelease (.contact i) s else s) = u at stored
    have retaken (v : State) (hv : P v) : P (retakeBaseline i cs v) := by
      unfold retakeBaseline
      dsimp only
      split
      · exact G.baseline _ _ hv
      · exact hv
    have counted : P (if (s.settings.inputs.get i).noise = cs.noise then u
        else u.setInput i (u.inputs.get i).recount) := by
      split
      · exact stored
      · exact quiet stored
    split
    · exact retaken _ counted
    · exact counted

theorem restartLadder_kept (K : KeptByWrites P) (G : KeptByGestures P) (ch : ChannelId) (cs : LadderSettings) (s : State)
    (h : P s) (ok : cs.ok = true) : P (restartLadder ch cs s) := by
  have started := K.ladder ch LadderState.started _
    (K.storeLadder ch cs _ (forButton_kept G.synthesized ch (s.ladders.get ch).decode s h) ok)
    (.inr (by simp [LadderState.started, LadderState.off]))
  unfold restartLadder
  dsimp only
  split
  · exact reevaluations_kept K.toKeptByPieces _ _ (K.raise _ _ started)
  · exact started

theorem writeLadder_kept (K : KeptByWrites P) (G : KeptByGestures P) (ch : ChannelId) (cs : LadderSettings) (s : State)
    (h : P s) (ok : cs.ok = true) : P (writeLadder ch cs s) := by
  unfold writeLadder
  split
  · exact K.storeLadder _ _ _ h ok
  · exact restartLadder_kept K G _ _ _ h ok
  · exact restartLadder_kept K G _ _ _ h ok

theorem restartStation_kept (K : KeptByWrites P) (G : KeptByGestures P) (a : StationId) (cs : StationSettings)
    (concerned : ZoneId → Bool) (s : State) (h : P s) (ok : cs.ok = true) :
    P (restartStation a (storeStation a cs) concerned s) := by
  have released : P (if (s.stations.get a).state = .active then releaseStationBy synthesizedRelease a s else s) := by
    split
    · exact (releaseStationBy_kept (.synthesized G) a s h).1
    · exact h
  unfold restartStation restartStationBy
  exact reevaluations_kept K.toKeptByPieces _ _ (enterStation_kept K.toKeptByPieces _ _ _ (K.storeStation a cs _ released ok))

theorem writeStation_kept (K : KeptByWrites P) (G : KeptByGestures P) (a : StationId) (cs : StationSettings) (s : State)
    (h : P s) (ok : cs.ok = true) : P (writeStation a cs s) := by
  unfold writeStation
  dsimp only
  split
  · split
    · exact reevaluations_kept K.toKeptByPieces _ _ (K.quiet (K.storeStation a cs s h ok) rfl)
    · exact restartStation_kept K G _ _ _ _ h ok
  · have restarted (concerned : ZoneId → Bool) := restartStation_kept K G a cs concerned s h ok
    split
    · exact K.quiet (restarted _) rfl
    · exact restarted _

/-- A property that the pieces, the gestures and the writes keep is kept by everything a command is made of. -/
theorem KeptByWrites.commands (K : KeptByWrites P) (G : KeptByGestures P) : KeptByCommands P where
  toKeptByGestures := G
  input _ _ _ h := K.quiet h rfl
  passed := K.passed
  writeInput := writeInput_kept K G
  writeLadder := writeLadder_kept K G
  writeStation := writeStation_kept K G
  clearBinding b s h := K.ramps _ _ (K.storeBinding b none s h (by simp) (by simp))
  writeBinding b x s h ok allowed := K.ramps _ _ (K.storeBinding b (some x) s h
    (fun _ e => by cases e; exact ok) (fun _ e => by cases e; exact allowed))
  restart := K.restart
  powerUp s h := K.started _ s h
  resetByLine s h := K.started _ s h
  heldInReset _ h := K.quiet h rfl
  unpowered := K.unpowered

/-- What the pieces, the gestures and the writes keep, whatever waits behind the command, every step keeps. -/
theorem KeptByWrites.keeps (K : KeptByWrites P) (G : KeptByGestures P) (queue : ∀ q s, P s → P { s with pending := q })
    {s t : State} (h : P s) (e : step s = .next t) : P t := step_gives (K.commands G) queue s h t e

/-- Where no tracker matters, the pieces and the writes are enough. -/
theorem KeptByWrites.keeps_of_tracker (K : KeptByWrites P) (tracker : ∀ src v s, P s → P (s.setTracker src v))
    (queue : ∀ q s, P s → P { s with pending := q }) {s t : State} (h : P s) (e : step s = .next t) : P t :=
  K.keeps (.ofTracker K.actions tracker) queue h e

end Sys2Proof.Machine

/-! PROOFS. The invariants of the claims, the levels, the relays, the bindings and the trackers read nothing but the settings, the
image, the trackers, the circuits and the mains tracker: what is left to show of such a property. -/

namespace Sys2Proof.Machine

/-- The settings, the image, the trackers, the circuits and the mains tracker are the same. -/
structure SameCore (s t : State) : Prop where
  settings : t.settings = s.settings
  image : t.image = s.image
  contactTrackers : t.contactTrackers = s.contactTrackers
  ladderTrackers : t.ladderTrackers = s.ladderTrackers
  stationTrackers : t.stationTrackers = s.stationTrackers
  circuits : t.circuits = s.circuits
  mains : t.mains = s.mains

theorem SameCore.tracker {s t : State} (h : SameCore s t) (src : Source) : t.tracker src = s.tracker src :=
  State.tracker_congr h.contactTrackers h.ladderTrackers h.stationTrackers src

theorem SameCore.mainsLocked {s t : State} (h : SameCore s t) : mainsLocked t = mainsLocked s := by
  unfold Machine.mainsLocked
  rw [h.mains]

theorem OnlyQuiet.core {s t : State} (h : OnlyQuiet s t) : SameCore s t := by
  unfold OnlyQuiet at h
  rw [h]
  exact ⟨rfl, rfl, rfl, rfl, rfl, rfl, rfl⟩

theorem OnlyZones.core {s t : State} (h : OnlyZones s t) : SameCore s t := by
  unfold OnlyZones at h
  rw [h]
  exact ⟨rfl, rfl, rfl, rfl, rfl, rfl, rfl⟩

/-- The state in which a warm restart takes the zones up: every other block restarted (R198). -/
def State.restarting (s : State) : State :=
  { s with
    causes := { s.causes with restart := true }
    reports := []
    lost := 0
    inputs := s.inputs.map InputState.restart
    stations := Table.zipWith restartedStation s.settings.stations s.stations
    contactTrackers := Table.zipWith restartContactTracker s.settings.inputs s.inputs
    ladderTrackers := s.ladders.map restartLadderTrackers
    stationTrackers := Table.replicate 32 (Table.replicate 8 Tracker.idle)
    circuits := Table.zipWith Circuit.restart s.settings.circuits s.circuits
    ramps := [] }

theorem warmRestart_eq (s : State) : warmRestart s =
    beginTurn (firstServed ((List.finRange 16).foldl restartZone s.restarting))
      ((List.finRange 16).foldl restartZone s.restarting) := rfl

theorem beginTurn_core (a : Option StationId) (s : State) : SameCore s (beginTurn a s) :=
  ⟨rfl, rfl, rfl, rfl, rfl, rfl, rfl⟩

theorem SameCore.trans {s t u : State} (h : SameCore s t) (k : SameCore t u) : SameCore s u :=
  ⟨k.settings.trans h.settings, k.image.trans h.image, k.contactTrackers.trans h.contactTrackers,
    k.ladderTrackers.trans h.ladderTrackers, k.stationTrackers.trans h.stationTrackers, k.circuits.trans h.circuits,
    k.mains.trans h.mains⟩

theorem warmRestart_core (s : State) : SameCore s.restarting (warmRestart s) :=
  (restartZones_frame _ _).core.trans (beginTurn_core _ _)

/-- What a start makes of the core (R54, R115, R135, R164, R171, R195). -/
structure StartedCore (s t : State) : Prop where
  settings : t.settings = s.image.getD Settings.defaults
  image : t.image = s.image
  circuits : t.circuits = t.settings.circuits.map startedCircuit
  trackers : ∀ src, t.tracker src = Tracker.idle
  mains : t.mains = Mains.started

theorem startFrom_tracker (c : Settings) (v : Option Settings) (causes : ResetCauses) (d : Nat) (q : List Instr)
    (src : Source) : (startFrom c v causes d q).tracker src = Tracker.idle := by
  cases src <;> simp [startFrom, beginTurn, startZones, State.reset, State.tracker]

theorem loadAndStart_core (causes : ResetCauses) (s : State) : StartedCore s (loadAndStart causes s) := by
  unfold loadAndStart
  cases h : s.image with
  | some c => exact ⟨by rw [h]; rfl, h.symm, rfl, startFrom_tracker _ _ _ _ _, rfl⟩
  | none => exact ⟨by rw [h]; rfl, h.symm, rfl, startFrom_tracker _ _ _ _ _, rfl⟩

/-- A property of the core, with what the pieces of a command do to the core. -/
structure KeptOverCore (P : State → Prop) : Prop where
  same : ∀ {s t : State}, P s → SameCore s t → P t
  image : ∀ v s, P s → v = none ∨ v = some s.settings → P { s with image := v }
  place : ∀ c n fade s, P s → n.placedAs = true → (LevelsFollowTargets s → n.level ≤ 1000) → P (place c n fade s)
  lose : ∀ circuits s, P s → (∀ n, (s.circuits.get n).Loses (s.settings.circuits.get n) (circuits.get n)) →
    P { s with circuits := circuits }
  mains : ∀ m s, P s → P { s with
    mains := m, circuits := if s.mains.state = .locked ∧ m.state ≠ .locked then (applyCrossings s).circuits else s.circuits }
  crossings : ∀ s, P s → P (applyCrossings s)
  dwell : ∀ c s, P s → (s.circuits.get c).relay.dwellRunning = true → P (s.setCircuit c { s.circuits.get c with
    relay := (s.circuits.get c).relay.endDwell (s.settings.circuits.get c) (mainsLocked s) })
  rampStep : ∀ r s, P s → P (changeCircuits (Ramp.moveCircuit r (Ramp.step r)) s)
  converted : ∀ s, P s → P (stepCircuits s)
  passed : ∀ s, P s → P (passTime s)
  writeScene : ∀ sc c s, P s → Scene.ok { c with entries := sortEntries c.entries } = true →
    hasRoom sc c.entries.length s = true → P (writeScene sc c s)
  writeCircuit : ∀ c cs s, P s → cs.ok = true → P (writeCircuit c cs s)
  storeZone : ∀ z zs s, P s → zs.ok = true → P (s.setSettings { s.settings with zones := s.settings.zones.set z zs })
  writeAnnunciator : ∀ a f s, P s → P (writeAnnunciator a f s)
  storeGeneral : ∀ g s, P s → g.silenceTimeout ≤ 255 → P (s.setSettings { s.settings with general := g })
  storeInput : ∀ i cs s, P s → cs.ok i = true → inputDenied i cs s = false → P (storeInput i cs s)
  storeLadder : ∀ ch cs s, P s → cs.ok = true → P (storeLadder ch cs s)
  storeStation : ∀ a cs s, P s → cs.ok = true → P (storeStation a cs s)
  storeBinding : ∀ b x s, P s → (∀ y, x = some y → y.action.ok = true) →
    (∀ y, x = some y → y.cls = .egress → egressAllowed y.source s = true) →
    P (s.setSettings { s.settings with bindings := s.settings.bindings.set b x })
  restart : ∀ s, P s → P s.restarting
  started : ∀ s t, P s → StartedCore s t → P t
  unpowered : ∀ s, P s → P (losePower s)

variable {P : State → Prop}

theorem levelTick_keptOverCore (K : KeptOverCore P) (s : State) (h : P s) : P (levelTick s) := by
  have ramped : P (s.ramps.foldl stepRamp s) := by
    refine foldl_kept (fun u r h => ?_) _ _ h
    unfold stepRamp
    split
    · exact h
    · exact K.rampStep _ _ h
  have stepped : P (stepRamps s) := K.same ramped ⟨rfl, rfl, rfl, rfl, rfl, rfl, rfl⟩
  exact K.same (K.converted _ stepped) ⟨rfl, rfl, rfl, rfl, rfl, rfl, rfl⟩

theorem KeptOverCore.writes (K : KeptOverCore P) : KeptByWrites P where
  quiet h q := K.same h q.core
  raise r s h := K.same h (raise_frame r s).zones.core
  unreport s h := K.same h ⟨rfl, rfl, rfl, rfl, rfl, rfl, rfl⟩
  counted s h := K.same h ⟨rfl, rfl, rfl, rfl, rfl, rfl, rfl⟩
  enqueue e s h := by
    unfold enqueue
    split
    · exact K.same h ⟨rfl, rfl, rfl, rfl, rfl, rfl, rfl⟩
    · exact h
  unqueue s h := K.same h ⟨rfl, rfl, rfl, rfl, rfl, rfl, rfl⟩
  image := K.image
  enter z n s h _ := K.same h (enterZone_frame z n s).core
  forced z f s h := K.same h ⟨rfl, rfl, rfl, rfl, rfl, rfl, rfl⟩
  ramps w s h := K.same h ⟨rfl, rfl, rfl, rfl, rfl, rfl, rfl⟩
  requestRamp r s h _ _ := K.same h (by rw [requestRamp_frame]; exact ⟨rfl, rfl, rfl, rfl, rfl, rfl, rfl⟩)
  ladder ch v s h _ := K.same h ⟨rfl, rfl, rfl, rfl, rfl, rfl, rfl⟩
  place := K.place
  lose := K.lose
  mains := K.mains
  crossings := K.crossings
  dwell := K.dwell
  tick := levelTick_keptOverCore K
  writeScene := K.writeScene
  writeCircuit := K.writeCircuit
  storeZone := K.storeZone
  writeAnnunciator := K.writeAnnunciator
  storeGeneral := K.storeGeneral
  passed := K.passed
  storeInput := K.storeInput
  storeLadder := K.storeLadder
  storeStation := K.storeStation
  storeBinding := K.storeBinding
  restart s h := K.same (K.restart s h) (warmRestart_core s)
  started causes s h := K.started _ _ h (loadAndStart_core causes s)
  unpowered := K.unpowered

theorem KeptOverCore.queue (K : KeptOverCore P) (q : List Instr) (s : State) (h : P s) : P { s with pending := q } :=
  K.same h ⟨rfl, rfl, rfl, rfl, rfl, rfl, rfl⟩

end Sys2Proof.Machine

/-! PROOFS. Every step keeps every gesture tracker's record in order (R43, R45 to R50, R54, R55). -/

namespace Sys2Proof.Machine

theorem Tracker.idle_ok : Tracker.idle.ok = true := rfl
theorem Tracker.latent_ok : Tracker.latent.ok = true := rfl

theorem TrackersInOrder.congr {s t : State} (h : TrackersInOrder s) (e : ∀ src, t.tracker src = s.tracker src) :
    TrackersInOrder t := fun src => by
  rw [e]
  exact h src

theorem TrackersInOrder.setTracker {s : State} (h : TrackersInOrder s) (src : Source) {v : Tracker} (ok : v.ok = true) :
    TrackersInOrder (s.setTracker src v) := fun other => by
  rw [State.tracker_setTracker]
  split
  · exact ok
  · exact h other

theorem TrackersInOrder.dispatch {s : State} (h : TrackersInOrder s) (src : Source) (trg : Trigger) (sup : List ZoneId) :
    TrackersInOrder (dispatch src trg sup s) := h.congr fun other => dispatch_tracker src trg sup s other

/-- The record of a gesture just started is that of a tracker in DOWN (R45). -/
theorem pressedTracker_ok (s : State) (src : Source) : (pressedTracker s src).ok = true := by
  cases hk : kindOf s src <;> simp [Tracker.ok, pressedTracker, hk]

/-- Only the tracker of a gesture that ends is touched in the end, and it is IDLE (R47 to R49). -/
theorem TrackersInOrder.endGesture {s : State} (h : TrackersInOrder s) (src : Source) (l : List Trigger) :
    TrackersInOrder (endGesture src l s) := fun other => by
  by_cases e : other = src
  · subst e
    rw [endGesture_self]
    exact Tracker.idle_ok
  · rw [endGesture_other s l e]
    exact h other

/-- A tracker in DOWN with its timer running is of a MOMENTARY gesture, and HELD without a timer is its record (R46). -/
theorem Tracker.held_ok {t : Tracker} (h : t.ok = true) (down : t.state = .down) (running : t.timer.isSome = true) :
    ({ t with state := .held, timer := none } : Tracker).ok = true := by
  simp only [Tracker.ok, down, running, Bool.and_eq_true, beq_iff_eq] at h
  obtain ⟨⟨-, held⟩, kind⟩ := h
  simp [Tracker.ok, held, of_decide_eq_true kind.symm]

theorem Tracker.passTime_ok {t : Tracker} (h : t.ok = true) : t.passTime.ok = true := by
  cases ht : t.state with
  | idle =>
    have e : t = Tracker.idle := by simpa [Tracker.ok, ht] using h
    rw [e]
    rfl
  | latent =>
    have e : t = Tracker.latent := by simpa [Tracker.ok, ht] using h
    rw [e]
    rfl
  | down => simpa [Tracker.ok, Tracker.passTime, countDown, ht] using h
  | held => simpa [Tracker.ok, Tracker.passTime, countDown, ht] using h

theorem trackersKeptOverCore : KeptOverCore TrackersInOrder where
  same h e := h.congr e.tracker
  image _ _ h _ := h
  place c n fade s h _ _ := by
    have frame := place_frame c n fade s
    unfold OnlyClaims at frame
    rw [frame]
    exact h
  lose _ _ h _ := h
  mains _ _ h := h
  crossings _ h := h
  dwell _ _ h _ := h
  rampStep _ _ h := h
  converted _ h := h
  passed s h src := by
    have same : (passTime s).tracker src = (s.tracker src).passTime := by cases src <;> simp [State.tracker, passTime]
    rw [same]
    exact Tracker.passTime_ok (h src)
  writeScene _ _ _ h _ _ := h
  writeCircuit _ _ _ h _ := h
  storeZone _ _ _ h _ := h
  writeAnnunciator _ _ _ h := h
  storeGeneral _ _ h _ := h
  storeInput _ _ _ h _ _ := h
  storeLadder _ _ _ h _ := h
  storeStation _ _ _ h _ := h
  storeBinding _ _ _ h _ _ := h
  restart s _ src := by
    cases src with
    | contact i =>
      simp only [State.tracker, State.restarting, Table.get_zipWith, restartContactTracker]
      split
      · split <;> rfl
      · rfl
    | ladder ch b =>
      simp only [State.tracker, State.restarting, Table.get_map, restartLadderTrackers, Table.get_ofFn]
      split <;> rfl
    | station a b => simp [State.tracker, State.restarting, Tracker.idle_ok]
  started _ _ _ e src := by
    rw [e.trackers]
    rfl
  unpowered s _ src := by cases src <;> simp [State.tracker, losePower, State.reset, Tracker.idle_ok]

theorem trackersKeptByGestures : KeptByGestures TrackersInOrder where
  toKeptByActions := trackersKeptOverCore.writes.actions
  press src s h := by
    unfold press
    split
    all_goals first | exact (h.setTracker src (pressedTracker_ok s src)).dispatch _ _ _ | exact h
  release src s h := by
    unfold release
    split
    all_goals first | exact h.endGesture _ _ | exact h
  synthesized src s h := by
    unfold synthesizedRelease
    split
    all_goals first | exact h.endGesture _ _ | exact h
  baseline src s h := by
    unfold baseline
    split
    all_goals first | exact h.setTracker src Tracker.latent_ok | exact h
  expire src s h down running := (h.setTracker src (Tracker.held_ok (h src) down running)).dispatch _ _ _

/-- Settles O58: a tracker changes only by an arrival or its hold timer's expiry, each of which leaves it in order. -/
theorem stepsKeepTrackersInOrder : Obligations.StepsKeepTrackersInOrder :=
  fun _ _ h e => trackersKeptOverCore.writes.keeps trackersKeptByGestures trackersKeptOverCore.queue h e

end Sys2Proof.Machine

/-! PROOFS. Every step keeps every EGRESS binding on an egress-capable contact input of function CONTACT (R1, R59). -/

namespace Sys2Proof.Machine

/-- The law of R59 reads the inputs and the bindings alone. -/
theorem Settings.EgressLaw.congr {c d : Settings} (h : c.EgressLaw) (inputs : d.inputs = c.inputs)
    (bindings : d.bindings = c.bindings) : d.EgressLaw := by
  unfold Settings.EgressLaw at *
  rw [inputs, bindings]
  exact h

theorem OfBothCopies.congr {Q : Settings → Prop} {s t : State} (h : OfBothCopies Q s) (settings : t.settings = s.settings)
    (image : t.image = s.image) : OfBothCopies Q t := by
  unfold OfBothCopies at *
  rw [settings, image]
  exact h

/-- A save copies the live configuration into the image (R191, R192). -/
theorem OfBothCopies.image {Q : Settings → Prop} {s : State} (h : OfBothCopies Q s) {v : Option Settings}
    (hv : v = none ∨ v = some s.settings) : OfBothCopies Q { s with image := v } := by
  refine ⟨h.1, fun c (hc : v = some c) => ?_⟩
  obtain rfl | rfl := hv
  · cases hc
  · cases hc
    exact h.1

/-- A start loads what the image holds, or the defaults (R195). -/
theorem OfBothCopies.started {Q : Settings → Prop} {s t : State} (h : OfBothCopies Q s) (defaults : Q Settings.defaults)
    (e : StartedCore s t) : OfBothCopies Q t := by
  refine ⟨?_, fun c hc => h.2 c (e.image ▸ hc)⟩
  rw [e.settings]
  cases hi : s.image with
  | some c => exact h.2 c hi
  | none => exact defaults

theorem Settings.defaults_egressLaw : Settings.defaults.EgressLaw := fun b x hx => by simp [Settings.defaults] at hx

/-- A write that is not denied leaves the source of every EGRESS binding egress-capable and of function CONTACT (R1). -/
theorem Settings.EgressLaw.storeInput {s : State} (h : s.settings.EgressLaw) {i : InputId} {cs : InputSettings}
    (allowed : inputDenied i cs s = false) : (storeInput i cs s).settings.EgressLaw := by
  intro b x hx egress
  obtain ⟨j, source, capable, contact⟩ := h b x hx egress
  refine ⟨j, source, ?_⟩
  show ((s.settings.inputs.set i cs).get j).egressCapable = true ∧ ((s.settings.inputs.set i cs).get j).function = .contact
  rw [Table.get_set]
  split
  · next e =>
    subst e
    have sources : sourcesEgress i s = true := by
      refine Table.any_items.mpr ⟨b, ?_⟩
      rw [show s.settings.bindings.get b = some x from hx]
      simp [egress, source]
    simp only [inputDenied, sources, Bool.true_and, Bool.or_eq_false_iff, Bool.not_eq_false', decide_eq_false_iff_not]
      at allowed
    cases hf : cs.function with
    | contact => exact ⟨allowed.1, rfl⟩
    | ladder => exact absurd hf allowed.2
  · exact ⟨capable, contact⟩

/-- A source that may carry an EGRESS binding is one the law asks for (R59). -/
theorem egressAllowed_source {src : Source} {s : State} (h : egressAllowed src s = true) : ∃ i, src = .contact i ∧
    (s.settings.inputs.get i).egressCapable = true ∧ (s.settings.inputs.get i).function = .contact := by
  cases src with
  | contact i =>
    simp only [egressAllowed, Bool.and_eq_true, decide_eq_true_eq] at h
    exact ⟨i, rfl, h⟩
  | ladder => cases h
  | station => cases h

theorem Settings.EgressLaw.storeBinding {s : State} (h : s.settings.EgressLaw) (b : SlotId) {x : Option Binding}
    (allowed : ∀ y, x = some y → y.cls = .egress → egressAllowed y.source s = true) :
    ({ s.settings with bindings := s.settings.bindings.set b x } : Settings).EgressLaw := by
  intro c y hy egress
  have hy : (s.settings.bindings.set b x).get c = some y := hy
  rw [Table.get_set] at hy
  split at hy
  · exact egressAllowed_source (allowed y hy egress)
  · exact h c y hy egress

theorem egressKeptOverCore : KeptOverCore (OfBothCopies Settings.EgressLaw) where
  same h e := h.congr e.settings e.image
  image _ _ h hv := h.image hv
  place c n fade s h _ _ := by
    have frame := place_frame c n fade s
    unfold OnlyClaims at frame
    rw [frame]
    exact h
  lose _ _ h _ := h
  mains _ _ h := h
  crossings _ h := h
  dwell _ _ h _ := h
  rampStep _ _ h := h
  converted _ h := h
  passed _ h := h
  writeScene _ _ _ h _ _ := ⟨h.1.congr rfl rfl, h.2⟩
  writeCircuit _ _ _ h _ := ⟨h.1.congr rfl rfl, h.2⟩
  storeZone _ _ _ h _ := ⟨h.1.congr rfl rfl, h.2⟩
  writeAnnunciator _ _ _ h := ⟨h.1.congr rfl rfl, h.2⟩
  storeGeneral _ _ h _ := ⟨h.1.congr rfl rfl, h.2⟩
  storeInput _ _ _ h _ allowed := ⟨h.1.storeInput allowed, h.2⟩
  storeLadder _ _ _ h _ := ⟨h.1.congr rfl rfl, h.2⟩
  storeStation _ _ _ h _ := ⟨h.1.congr rfl rfl, h.2⟩
  storeBinding b _ _ h _ allowed := ⟨h.1.storeBinding b allowed, h.2⟩
  restart _ h := h
  started _ _ h e := h.started Settings.defaults_egressLaw e
  unpowered _ h := ⟨Settings.defaults_egressLaw, h.2⟩

/-- Settles O57: the writes of an input and of a binding are the two that the law depends on, and R1 and R59 deny those that
would break it. -/
theorem stepsKeepTheEgressLaw : Obligations.StepsKeepTheEgressLaw :=
  fun _ _ h e => egressKeptOverCore.writes.keeps_of_tracker (fun _ _ _ h => h.congr (by simp) (by simp))
    egressKeptOverCore.queue h e

end Sys2Proof.Machine

/-! PROOFS. Every step keeps the claim lists in order, with claims that their owners may place (R96, R97). -/

namespace Sys2Proof.Machine

/-- A placement leaves every circuit, or gives one of them the list it was placed in (R98 to R101). -/
theorem place_circuits (c : CircuitId) (n : Claim) (fade : Nat) (s : State) :
    (place c n fade s).circuits = s.circuits ∨
    ∃ l, (placeClaim n (s.circuits.get c).claims = .taken l ∨ ∃ old, placeClaim n (s.circuits.get c).claims = .evicted old l) ∧
      (place c n fade s).circuits =
        s.circuits.set c ({ s.circuits.get c with claims := l }.retarget (s.settings.circuits.get c) fade) := by
  unfold place
  dsimp only
  split
  · next l e => exact .inr ⟨l, .inl e, rfl⟩
  · next old l e => exact .inr ⟨l, .inr ⟨old, e⟩, by rw [raise_circuits]; rfl⟩
  · exact .inl (raise_circuits _ _)

@[simp] theorem Circuit.rewrite_claims (old cs : CircuitSettings) (locked : Bool) (c : Circuit) :
    (c.rewrite old cs locked).claims = c.claims := by
  have headed : (if c.claims = [] ∧ old.rest ≠ cs.rest then c.headFor cs.rest cs.defaultFade else c).claims = c.claims := by
    split <;> simp
  unfold Circuit.rewrite
  dsimp only
  split <;> exact headed

@[simp] theorem Ramp.moveClaim_key (r : Ramp) (step limit : Nat) (c : Claim) : (r.moveClaim step limit c).key = c.key := by
  unfold Ramp.moveClaim
  split <;> rfl

@[simp] theorem Ramp.moveClaim_cls (r : Ramp) (step limit : Nat) (c : Claim) : (r.moveClaim step limit c).cls = c.cls := by
  unfold Ramp.moveClaim
  split <;> rfl

@[simp] theorem Ramp.moveClaim_placedAs (r : Ramp) (step limit : Nat) (c : Claim) :
    (r.moveClaim step limit c).placedAs = c.placedAs := by
  unfold Ramp.moveClaim
  split <;> rfl

/-- A ramp step moves the levels of claims and nothing else of the list (R127). -/
@[simp] theorem Ramp.moveCircuit_claims (r : Ramp) (step : Nat) (cs : CircuitSettings) (c : Circuit) :
    (r.moveCircuit step cs c).claims = c.claims.map (r.moveClaim step (rampLimit cs)) := by
  unfold Ramp.moveCircuit
  dsimp only
  split
  · split <;> rfl
  · rfl

theorem ClaimListOk.moved {l : List Claim} (h : ClaimListOk l) (r : Ramp) (step limit : Nat) :
    ClaimListOk (l.map (r.moveClaim step limit)) where
  short := by
    rw [List.length_map]
    exact h.short
  keys := by
    rw [List.map_map, show Claim.key ∘ r.moveClaim step limit = Claim.key from funext (r.moveClaim_key step limit)]
    exact h.keys
  ordered := List.pairwise_map.mpr (by simpa using h.ordered)

/-- One circuit's list as every step keeps it. -/
structure Circuit.ClaimsOk (c : Circuit) : Prop where
  list : ClaimListOk c.claims
  owners : ∀ cl ∈ c.claims, cl.placedAs = true

theorem claimsInOrder_iff {s : State} : ClaimsInOrder s ↔ ∀ c, (s.circuits.get c).ClaimsOk :=
  ⟨fun h c => ⟨h.lists c, h.owners c⟩, fun h => ⟨fun c => (h c).list, fun c => (h c).owners⟩⟩

theorem Circuit.ClaimsOk.sublist {c d : Circuit} (h : c.ClaimsOk) (sub : d.claims.Sublist c.claims) : d.ClaimsOk :=
  ⟨h.list.sublist sub, fun cl hcl => h.owners cl (sub.subset hcl)⟩

theorem Circuit.ClaimsOk.same {c d : Circuit} (h : c.ClaimsOk) (e : d.claims = c.claims) : d.ClaimsOk :=
  h.sublist (e ▸ List.Sublist.refl _)

theorem Circuit.ClaimsOk.placed {c : Circuit} (h : c.ClaimsOk) {n : Claim} (owned : n.placedAs = true) {l : List Claim}
    (hp : placeClaim n c.claims = .taken l ∨ ∃ old, placeClaim n c.claims = .evicted old l) {d : Circuit}
    (e : d.claims = l) : d.ClaimsOk := by
  obtain ⟨list, members⟩ := placeClaim_taken h.list hp
  refine ⟨e ▸ list, fun cl hcl => ?_⟩
  rcases members cl (e ▸ hcl) with rfl | old
  · exact owned
  · exact h.owners cl old

theorem Circuit.ClaimsOk.empty {c : Circuit} (e : c.claims = []) : c.ClaimsOk :=
  ⟨by rw [e]; exact ⟨by simp, by simp, by simp⟩, by simp [e]⟩

theorem Circuit.ClaimsOk.restarted (cs : CircuitSettings) (c : Circuit) : (c.restart cs).ClaimsOk :=
  ⟨⟨by simp [Circuit.restart], by simp [Circuit.restart], by simp [Circuit.restart]⟩,
    by simp [Circuit.restart, restartClaim, Claim.placedAs]⟩

theorem ClaimsInOrder.circuits {s t : State} (h : ClaimsInOrder s)
    (step : ∀ c, (s.circuits.get c).ClaimsOk → (t.circuits.get c).ClaimsOk) : ClaimsInOrder t :=
  claimsInOrder_iff.mpr fun c => step c (claimsInOrder_iff.mp h c)

theorem Relay.cross_claims (s : State) (c : CircuitId) :
    ((applyCrossings s).circuits.get c).claims = (s.circuits.get c).claims := by
  simp [applyCrossings]

@[simp] theorem startedCircuit_claims (cs : CircuitSettings) : (startedCircuit cs).claims = [] := by
  simp [startedCircuit, Circuit.started]

theorem claimsKeptOverCore : KeptOverCore ClaimsInOrder where
  same h e := h.circuits fun c hc => by
    rw [e.circuits]
    exact hc
  image _ _ h _ := ⟨h.lists, h.owners⟩
  place c n fade s h owned _ := h.circuits fun k hk => by
    rcases place_circuits c n fade s with e | ⟨l, hp, e⟩ <;> rw [e]
    · exact hk
    · rw [Table.get_set]
      split
      · next same =>
        subst same
        exact hk.placed owned hp (Circuit.retarget_claims _ _ _)
      · exact hk
  lose circuits s h lost := h.circuits fun k hk => by
    rcases lost k with e | ⟨l, fade, sub, e⟩ <;> rw [show circuits.get k = _ from e]
    · exact hk
    · exact hk.sublist (by rw [Circuit.retarget_claims]; exact sub)
  mains m s h := h.circuits fun k hk => by
    dsimp only
    split
    · exact hk.same (Relay.cross_claims s k)
    · exact hk
  crossings s h := h.circuits fun k hk => hk.same (Relay.cross_claims s k)
  dwell c s h _ := h.circuits fun k hk => by
    simp only [State.setCircuit_circuits, Table.get_set]
    split
    · next e => subst e; exact ⟨hk.list, hk.owners⟩
    · exact hk
  rampStep r s h := h.circuits fun k hk => by
    rw [changeCircuits_get]
    refine ⟨by rw [Ramp.moveCircuit_claims]; exact hk.list.moved _ _ _, fun cl hcl => ?_⟩
    rw [Ramp.moveCircuit_claims] at hcl
    obtain ⟨old, ho, rfl⟩ := List.mem_map.mp hcl
    rw [Ramp.moveClaim_placedAs]
    exact hk.owners old ho
  converted s h := h.circuits fun k hk => by
    unfold stepCircuits
    rw [changeCircuits_get]
    exact hk.same (Circuit.fadeStep_claims _)
  passed s h := h.circuits fun k hk => by
    refine hk.same ?_
    simp [passTime]
  writeScene _ _ _ h _ _ := ⟨h.lists, h.owners⟩
  writeCircuit c cs s h _ := h.circuits fun k hk => by
    simp only [writeCircuit, State.setCircuit_circuits, State.setSettings_circuits, Table.get_set]
    split
    · next e => subst e; exact hk.same (Circuit.rewrite_claims _ _ _ _)
    · exact hk
  storeZone _ _ _ h _ := ⟨h.lists, h.owners⟩
  writeAnnunciator _ _ _ h := ⟨h.lists, h.owners⟩
  storeGeneral _ _ h _ := ⟨h.lists, h.owners⟩
  storeInput _ _ _ h _ _ := ⟨h.lists, h.owners⟩
  storeLadder _ _ _ h _ := ⟨h.lists, h.owners⟩
  storeStation _ _ _ h _ := ⟨h.lists, h.owners⟩
  storeBinding _ _ _ h _ _ := ⟨h.lists, h.owners⟩
  restart s h := h.circuits fun k _ => by
    simp only [State.restarting, Table.get_zipWith]
    exact .restarted _ _
  started s t h e := h.circuits fun k _ => by
    rw [e.circuits, Table.get_map]
    exact .empty (startedCircuit_claims _)
  unpowered s h := h.circuits fun k _ => .empty (by simp [losePower, State.reset, Circuit.started])

/-- Settles O52: only a placement puts a claim into a list, by the three rules, and only claims of the owner's kind. -/
theorem stepsKeepClaimsInOrder : Obligations.StepsKeepClaimsInOrder :=
  fun _ _ h e => claimsKeptOverCore.writes.keeps_of_tracker
    (fun _ _ _ h => h.circuits fun _ hc => by rw [State.setTracker_circuits]; exact hc)
    claimsKeptOverCore.queue h e

end Sys2Proof.Machine

/-! PROOFS. Every step keeps relay changes waiting only where they may wait (R118, R157 to R164). -/

namespace Sys2Proof.Machine

/-- One circuit's relay record and request as every step keeps them. -/
structure Circuit.RelayOk (cs : CircuitSettings) (locked : Bool) (c : Circuit) : Prop where
  relay : c.relay.Sound cs locked
  request : cs.law ≠ .switched → c.request = false

theorem relaysInOrder_iff {s : State} :
    RelaysInOrder s ↔ ∀ c, (s.circuits.get c).RelayOk (s.settings.circuits.get c) (mainsLocked s) :=
  ⟨fun h c => ⟨h.relays c, h.requests c⟩, fun h => ⟨fun c => (h c).relay, fun c => (h c).request⟩⟩

theorem Circuit.RelayOk.same {cs : CircuitSettings} {locked : Bool} {c d : Circuit} (h : c.RelayOk cs locked)
    (relay : d.relay = c.relay) (request : d.request = c.request) : d.RelayOk cs locked :=
  ⟨relay ▸ h.relay, request ▸ h.request⟩

/-- Where the settings of the circuits and the tracker stay, each circuit is a matter of its own. -/
theorem RelaysInOrder.circuits {s t : State} (h : RelaysInOrder s) (settings : t.settings.circuits = s.settings.circuits)
    (mains : t.mains.state = s.mains.state)
    (step : ∀ c, (s.circuits.get c).RelayOk (s.settings.circuits.get c) (mainsLocked s) →
      (t.circuits.get c).RelayOk (s.settings.circuits.get c) (mainsLocked s)) : RelaysInOrder t := by
  have locked : mainsLocked t = mainsLocked s := by
    unfold mainsLocked
    rw [mains]
  refine relaysInOrder_iff.mpr fun c => ?_
  rw [settings, locked]
  exact step c (relaysInOrder_iff.mp h c)

theorem RelaysInOrder.congr {s t : State} (h : RelaysInOrder s) (settings : t.settings.circuits = s.settings.circuits)
    (mains : t.mains.state = s.mains.state) (circuits : t.circuits = s.circuits) : RelaysInOrder t :=
  h.circuits settings mains fun c hc => by
    rw [circuits]
    exact hc

theorem Circuit.RelayOk.retarget {cs : CircuitSettings} {locked : Bool} {c : Circuit} (h : c.RelayOk cs locked)
    (l : List Claim) (fade : Nat) : ({ c with claims := l }.retarget cs fade).RelayOk cs locked :=
  h.same (Circuit.retarget_relay _ _ _) (Circuit.retarget_request _ _ _)

/-- What waits for a crossing is applied, and nothing else waits for one then (R161, R162). -/
theorem Circuit.RelayOk.cross {cs : CircuitSettings} {locked : Bool} {c : Circuit} (h : c.RelayOk cs locked) (now : Bool) :
    ({ c with relay := c.relay.cross cs } : Circuit).RelayOk cs now := ⟨h.relay.cross _ _ _, h.request⟩

/-- While the tracker is not LOCKED nothing waits for a crossing, so its record is in order also where the tracker locks. -/
theorem Circuit.RelayOk.of_unlocked {cs : CircuitSettings} {c : Circuit} (h : c.RelayOk cs false) (now : Bool) :
    c.RelayOk cs now :=
  ⟨⟨h.relay.afterDwell, fun b hb => by simpa using (h.relay.atCrossing b hb).2.2.2⟩, h.request⟩

theorem Ramp.moveCircuit_relay (r : Ramp) (step : Nat) (cs : CircuitSettings) (c : Circuit) :
    (r.moveCircuit step cs c).relay = c.relay ∧ (r.moveCircuit step cs c).request = c.request := by
  unfold Ramp.moveCircuit
  dsimp only
  split
  · split <;> exact ⟨rfl, rfl⟩
  · exact ⟨rfl, rfl⟩

/-- A relay request is evaluated only under the law SWITCHED (R118, R133). -/
theorem requestAt_of_not_switched {cs : CircuitSettings} (h : cs.law ≠ .switched) (level : Nat) (previous : Bool) :
    requestAt cs level previous = false := by
  unfold requestAt
  split <;> first | contradiction | rfl

theorem Circuit.RelayOk.convert {cs : CircuitSettings} {locked : Bool} {c : Circuit} (h : c.RelayOk cs locked) :
    (c.fadeStep.convert locked cs).RelayOk cs locked := by
  refine ⟨?_, fun law => requestAt_of_not_switched law _ _⟩
  have handed := h.relay.hand (requestAt cs c.fadeStep.level c.fadeStep.request)
  simpa [Circuit.convert] using handed

theorem Relay.Sound.idle {cs : CircuitSettings} {locked : Bool} {r : Relay} (h : r.waiting = .none) : r.Sound cs locked :=
  ⟨fun b hb => by simp [h] at hb, fun b hb => by simp [h] at hb⟩

theorem Circuit.RelayOk.started (cs : CircuitSettings) (locked : Bool) : (startedCircuit cs).RelayOk cs locked := by
  refine ⟨.idle ?_, fun _ => ?_⟩ <;> simp [startedCircuit, Circuit.started, Relay.started]

theorem relaysKeptOverCore : KeptOverCore RelaysInOrder where
  same h e := h.congr (by rw [e.settings]) (by rw [e.mains]) e.circuits
  image _ _ h _ := h.congr rfl rfl rfl
  place c n fade s h _ _ := by
    have frame := place_frame c n fade s
    unfold OnlyClaims at frame
    refine h.circuits (by rw [frame]) (by rw [frame]) fun k hk => ?_
    rcases place_circuits c n fade s with e | ⟨l, -, e⟩ <;> rw [e]
    · exact hk
    · rw [Table.get_set]
      split
      · next same => subst same; exact hk.retarget _ _
      · exact hk
  lose circuits s h lost := h.circuits rfl rfl fun k hk => by
    rcases lost k with e | ⟨l, fade, -, e⟩ <;> rw [show circuits.get k = _ from e]
    · exact hk
    · exact hk.retarget _ _
  mains m s h := relaysInOrder_iff.mpr fun k => by
    have hk := relaysInOrder_iff.mp h k
    by_cases was : s.mains.state = .locked
    · by_cases now : m.state = .locked
      · have both : mainsLocked s = decide (m.state = .locked) := by simp [mainsLocked, was, now]
        simpa [was, now, mainsLocked] using hk
      · simpa [was, now, applyCrossings] using hk.cross _
    · have unlocked : mainsLocked s = false := by simp [mainsLocked, was]
      rw [unlocked] at hk
      simpa [was] using hk.of_unlocked _
  crossings s h := h.circuits rfl rfl fun k hk => by
    simpa [applyCrossings] using hk.cross _
  dwell c s h running := h.circuits rfl rfl fun k hk => by
    simp only [State.setCircuit_circuits, Table.get_set]
    split
    · next e => subst e; exact ⟨hk.relay.endDwell running, hk.request⟩
    · exact hk
  rampStep r s h := h.circuits rfl rfl fun k hk => by
    rw [changeCircuits_get]
    exact hk.same (r.moveCircuit_relay _ _ _).1 (r.moveCircuit_relay _ _ _).2
  converted s h := h.circuits rfl rfl fun k hk => by
    unfold stepCircuits
    rw [changeCircuits_get]
    exact hk.convert
  passed s h := h.circuits rfl rfl fun k hk => by
    simp only [passTime, Table.get_map]
    exact ⟨⟨hk.relay.afterDwell, hk.relay.atCrossing⟩, hk.request⟩
  writeScene _ _ _ h _ _ := h.congr rfl rfl rfl
  writeCircuit c cs s h _ := relaysInOrder_iff.mpr fun k => by
    have hk := relaysInOrder_iff.mp h k
    simp only [writeCircuit, State.setCircuit_circuits, State.setSettings_circuits, State.setCircuit_settings,
      State.setSettings_settings, Table.get_set]
    split
    · next e =>
      subst e
      obtain ⟨relay, request⟩ := Circuit.rewrite_relay (cs := cs) hk.relay hk.request
      exact ⟨relay, request⟩
    · exact hk
  storeZone _ _ _ h _ := h.congr rfl rfl rfl
  writeAnnunciator _ _ _ h := h.congr rfl rfl rfl
  storeGeneral _ _ h _ := h.congr rfl rfl rfl
  storeInput _ _ _ h _ _ := h.congr rfl rfl rfl
  storeLadder _ _ _ h _ := h.congr rfl rfl rfl
  storeStation _ _ _ h _ := h.congr rfl rfl rfl
  storeBinding _ _ _ h _ _ := h.congr rfl rfl rfl
  restart s h := h.circuits rfl rfl fun k hk => by
    simp only [State.restarting, Table.get_zipWith]
    exact ⟨.apply _ _ _ _, hk.request⟩
  started s t _ e := relaysInOrder_iff.mpr fun k => by
    rw [e.circuits, Table.get_map]
    exact .started _ _
  unpowered s _ := relaysInOrder_iff.mpr fun k =>
    ⟨.idle (by simp [losePower, State.reset, Circuit.started, Relay.started]), fun _ => by
      simp [losePower, State.reset, Circuit.started]⟩

/-- Settles O55: a change is made to wait only by the sequencer's own rules, and what waits for a crossing is applied where
the tracker leaves LOCKED or align is switched off. -/
theorem stepsKeepRelaysInOrder : Obligations.StepsKeepRelaysInOrder :=
  fun _ _ h e => relaysKeptOverCore.writes.keeps_of_tracker
    (fun _ _ _ h => h.congr (by simp) (by simp) (by simp)) relaysKeptOverCore.queue h e

end Sys2Proof.Machine

/-! PROOFS. Every step keeps each level in range and on its way to its circuit's target, and every setting within the range that
its write admits (R105, R116 to R134). -/

namespace Sys2Proof.Machine

/-! ## The settings -/

theorem InputSettings.defaults_ok (i : InputId) : InputSettings.defaults.ok i = true := by
  simp [InputSettings.ok, InputSettings.defaults, functionAllowed]

theorem Settings.defaults_entryCount : Settings.defaults.entryCount = 0 := by
  have none : ∀ n ∈ Settings.defaults.scenes.items.map (fun sc => sc.entries.length), n = 0 := by
    intro n hn
    obtain ⟨c, hc, rfl⟩ := List.mem_map.mp hn
    obtain ⟨i, rfl⟩ := Table.mem_items.mp hc
    simp [Settings.defaults, Scene.defaults]
  exact List.sum_eq_zero none

/-- R195: the defaults are settings that a write takes. -/
theorem Settings.defaults_inRange : Settings.defaults.InRange where
  inputs i := by simp [Settings.defaults, InputSettings.defaults_ok]
  ladders ch := by
    simp only [Settings.defaults, Table.get_replicate]
    decide
  stations a := by simp [Settings.defaults, StationSettings.ok, StationSettings.defaults]
  bindings b x h := by simp [Settings.defaults] at h
  scenes sc := by simp [Settings.defaults, Scene.ok, Scene.defaults, nameOk, entriesOk]
  pool := by rw [Settings.defaults_entryCount]; exact Nat.zero_le _
  circuits n := by simp [Settings.defaults, CircuitSettings.ok, CircuitSettings.defaults]
  zones z := by simp [Settings.defaults, ZoneSettings.ok, ZoneSettings.defaults, nameOk]
  timeout := by simp [Settings.defaults, GeneralSettings.defaults]

/-- A record replaced changes a sum over the table by that record's share. -/
theorem Table.sum_set {α : Type} {n : Nat} (f : α → Nat) (t : Table α n) (i : Fin n) (a : α) :
    ((t.set i a).items.map f).sum + f (t.get i) = (t.items.map f).sum + f a := by
  have key : ∀ (l : List α) (k : Nat) (hk : k < l.length), ((l.set k a).map f).sum + f l[k] = (l.map f).sum + f a := by
    intro l
    induction l with
    | nil => intro k hk; simp at hk
    | cons x l ih =>
      intro k hk
      cases k with
      | zero => simp; omega
      | succ k =>
        have := ih k (by simpa using hk)
        simp only [List.set_cons_succ, List.map_cons, List.sum_cons, List.getElem_cons_succ]
        omega
  rw [Table.get_eq_getElem]
  exact key _ _ _

/-- Where it holds for each record of one table of a configuration, it holds with one record replaced. -/
theorem Table.forall_set {α : Type} {n : Nat} {Q : Fin n → α → Prop} {t : Table α n} (h : ∀ i, Q i (t.get i)) {i : Fin n}
    {a : α} (ha : Q i a) (j : Fin n) : Q j ((t.set i a).get j) := by
  rw [Table.get_set]
  split
  · next e => exact e ▸ ha
  · exact h j

theorem writeScene_inRange {s : State} (h : s.settings.InRange) {sc : SceneId} {c : Scene}
    (ok : Scene.ok { c with entries := sortEntries c.entries } = true) (room : hasRoom sc c.entries.length s = true) :
    (writeScene sc c s).settings.InRange := by
  refine { h with scenes := Table.forall_set (Q := fun _ x => Scene.ok x = true) h.scenes ok, pool := ?_ }
  have sum := Table.sum_set (fun x : Scene => x.entries.length) s.settings.scenes sc
    { c with entries := sortEntries c.entries }
  simp only [sortEntries_length] at sum
  have room := of_decide_eq_true room
  simp only [poolUsed] at room
  simp only [Settings.entryCount, writeScene, State.setSettings_settings]
  omega

/-! ## The circuits -/

/-- What a placed list holds: the claim, and claims that were there. -/
theorem mem_placed {n cl : Claim} {l m : List Claim} (hp : placeClaim n l = .taken m ∨ ∃ old, placeClaim n l = .evicted old m)
    (hcl : cl ∈ m) : cl = n ∨ cl ∈ l := by
  unfold placeClaim at hp
  split at hp
  · simp only [Placement.taken.injEq, reduceCtorEq, exists_false, or_false] at hp
    subst hp
    exact (mem_insertClaim.mp hcl).imp_right fun h => (mem_dropKey.mp h).1
  · split at hp
    · simp only [Placement.taken.injEq, reduceCtorEq, exists_false, or_false] at hp
      subst hp
      exact mem_insertClaim.mp hcl
    · split at hp
      · simp only [Placement.taken.injEq, reduceCtorEq, exists_false, or_false] at hp
        subst hp
        exact mem_insertClaim.mp hcl
      · split at hp
        · simp at hp
        · simp only [reduceCtorEq, Placement.evicted.injEq, exists_and_right, exists_eq', true_and, false_or] at hp
          subst hp
          exact (mem_insertClaim.mp hcl).imp_right List.mem_of_mem_dropLast

theorem CircuitSettings.ok_rest {cs : CircuitSettings} (h : cs.ok = true) : cs.rest ≤ 1000 := by
  simp only [CircuitSettings.ok, Bool.and_eq_true, decide_eq_true_eq] at h
  omega

theorem CircuitSettings.ok_cap {cs : CircuitSettings} (h : cs.ok = true) : cs.cap ≤ 1000 := by
  simp only [CircuitSettings.ok, Bool.and_eq_true, decide_eq_true_eq] at h
  omega

/-- The relay record is no matter of a sound level. -/
theorem Circuit.Sound.withRelay {cs : CircuitSettings} {c : Circuit} (h : c.Sound cs) (r : Relay) :
    ({ c with relay := r } : Circuit).Sound cs := ⟨h.claims, h.level, h.output, h.resting, h.fading⟩

theorem Circuit.Sound.loses {cs : CircuitSettings} {c d : Circuit} (h : c.Sound cs) (rest : cs.rest ≤ 1000)
    (lost : c.Loses cs d) : d.Sound cs := by
  obtain rfl | ⟨l, fade, sub, rfl⟩ := lost
  · exact h
  · exact h.retarget rest (fun cl hcl => h.claims cl (sub.subset hcl)) fade

/-- R115: a circuit at start heads for its rest level. -/
theorem startedCircuit_sound {cs : CircuitSettings} (rest : cs.rest ≤ 1000) : (startedCircuit cs).Sound cs :=
  .headFor _ rest (by simp [Circuit.started]) (by simp [Circuit.started]) (by simp [Circuit.started])
    (by simp [Circuit.started])

/-- R135: a circuit at a warm restart rests at its level under the RESTART claim. -/
theorem Circuit.Sound.restarted {cs : CircuitSettings} {c : Circuit} (h : c.Sound cs) : (c.restart cs).Sound cs where
  claims cl hcl := by
    simp only [Circuit.restart, List.mem_singleton] at hcl
    rw [hcl]
    exact h.level
  level := h.level
  output := h.output
  resting _ := rfl
  fading f hf := by cases hf

theorem LevelsFollowTargets.rest {s : State} (h : LevelsFollowTargets s) (c : CircuitId) :
    (s.settings.circuits.get c).rest ≤ 1000 := CircuitSettings.ok_rest (h.settings.1.circuits c)

theorem LevelsFollowTargets.cap {s : State} (h : LevelsFollowTargets s) (c : CircuitId) :
    (s.settings.circuits.get c).cap ≤ 1000 := CircuitSettings.ok_cap (h.settings.1.circuits c)

/-- Where the configurations stay, each circuit is a matter of its own. -/
theorem LevelsFollowTargets.step {s t : State} (h : LevelsFollowTargets s) (settings : t.settings = s.settings)
    (image : t.image = s.image)
    (sound : ∀ c, (s.circuits.get c).Sound (s.settings.circuits.get c) → (t.circuits.get c).Sound (s.settings.circuits.get c)) :
    LevelsFollowTargets t :=
  ⟨h.settings.congr settings image, fun c => by rw [settings]; exact sound c (h.circuits c)⟩

/-- A write of settings that are not a circuit's. -/
theorem LevelsFollowTargets.stored {s t : State} (h : LevelsFollowTargets s) (inRange : t.settings.InRange)
    (image : t.image = s.image) (circuits : t.settings.circuits = s.settings.circuits) (running : t.circuits = s.circuits) :
    LevelsFollowTargets t :=
  ⟨⟨inRange, by rw [image]; exact h.settings.2⟩, by rw [circuits, running]; exact h.circuits⟩

theorem levelsKeptOverCore : KeptOverCore LevelsFollowTargets where
  same h e := h.step e.settings e.image fun c hc => by
    rw [e.circuits]
    exact hc
  image _ _ h hv := ⟨h.settings.image hv, h.circuits⟩
  place c n fade s h _ inRange := by
    have frame := place_frame c n fade s
    unfold OnlyClaims at frame
    refine h.step (by rw [frame]) (by rw [frame]) fun k hk => ?_
    rcases place_circuits c n fade s with e | ⟨l, hp, e⟩ <;> rw [e]
    · exact hk
    · rw [Table.get_set]
      split
      · next same =>
        subst same
        refine hk.retarget (h.rest c) (fun cl hcl => ?_) fade
        rcases mem_placed hp hcl with rfl | old
        · exact inRange h
        · exact hk.claims cl old
      · exact hk
  lose circuits s h lost := h.step rfl rfl fun c hc => hc.loses (h.rest c) (lost c)
  mains m s h := h.step rfl rfl fun c hc => by
    dsimp only
    split
    · simpa [applyCrossings] using hc.withRelay _
    · exact hc
  crossings s h := h.step rfl rfl fun c hc => by simpa [applyCrossings] using hc.withRelay _
  dwell c s h _ := h.step rfl rfl fun k hk => by
    simp only [State.setCircuit_circuits, Table.get_set]
    split
    · next e => subst e; exact hk.withRelay _
    · exact hk
  rampStep r s h := h.step rfl rfl fun c hc => by
    rw [changeCircuits_get]
    exact hc.ramp (h.cap c) _ _
  converted s h := h.step rfl rfl fun c hc => by
    unfold stepCircuits
    rw [changeCircuits_get]
    exact (hc.fadeStep (h.rest c)).convert (h.cap c) _
  passed s h := h.step rfl rfl fun c hc => by
    simp only [passTime, Table.get_map]
    exact hc.withRelay _
  writeScene sc c s h ok room := h.stored (writeScene_inRange h.settings.1 ok room) rfl rfl rfl
  writeCircuit c cs s h ok := by
    refine ⟨⟨{ h.settings.1 with circuits := ?_ }, h.settings.2⟩, fun k => ?_⟩
    · exact Table.forall_set (Q := fun _ x => CircuitSettings.ok x = true) h.settings.1.circuits ok
    · simp only [writeCircuit, State.setCircuit_circuits, State.setSettings_circuits, State.setCircuit_settings,
        State.setSettings_settings, Table.get_set]
      split
      · next e => subst e; exact (h.circuits c).rewrite (CircuitSettings.ok_rest ok) _
      · exact h.circuits k
  storeZone z zs s h ok := h.stored
    { h.settings.1 with zones := Table.forall_set (Q := fun _ x => ZoneSettings.ok x = true) h.settings.1.zones ok } rfl rfl rfl
  writeAnnunciator a f s h := h.stored { h.settings.1 with } rfl rfl rfl
  storeGeneral g s h ok := h.stored { h.settings.1 with timeout := ok } rfl rfl rfl
  storeInput i cs s h ok _ := h.stored
    { h.settings.1 with inputs := Table.forall_set (Q := fun i x => InputSettings.ok i x = true) h.settings.1.inputs ok }
    rfl rfl rfl
  storeLadder ch cs s h ok := h.stored
    { h.settings.1 with ladders := Table.forall_set (Q := fun _ x => LadderSettings.ok x = true) h.settings.1.ladders ok }
    rfl rfl rfl
  storeStation a cs s h ok := h.stored
    { h.settings.1 with
      stations := Table.forall_set (Q := fun _ x => StationSettings.ok x = true) h.settings.1.stations ok } rfl rfl rfl
  storeBinding b x s h ok _ := h.stored
    { h.settings.1 with
      bindings := Table.forall_set (Q := fun _ x => ∀ y : Binding, x = some y → y.action.ok = true) h.settings.1.bindings ok } rfl rfl rfl
  restart s h := h.step rfl rfl fun c hc => by
    simp only [State.restarting, Table.get_zipWith]
    exact hc.restarted
  started s t h e := by
    have settings := h.settings.started Settings.defaults_inRange e
    refine ⟨settings, fun c => ?_⟩
    rw [e.circuits, Table.get_map]
    exact startedCircuit_sound (CircuitSettings.ok_rest (settings.1.circuits c))
  unpowered s h := ⟨⟨Settings.defaults_inRange, h.settings.2⟩, fun c => by
    refine ⟨?_, ?_, ?_, fun _ => ?_, ?_⟩ <;>
      simp [losePower, State.reset, Circuit.started, Circuit.target, Settings.defaults, CircuitSettings.defaults]⟩

/-- Settles O53: a level moves only by a fade or a ramp, both towards or up to the target of the claims there then, and every
claim placed is at a level that some setting in range gives. -/
theorem stepsKeepLevelsOnTheirWay : Obligations.StepsKeepLevelsOnTheirWay :=
  fun _ _ h e => levelsKeptOverCore.writes.keeps_of_tracker
    (fun _ _ _ h => h.step (by simp) (by simp) fun _ hc => by rw [State.setTracker_circuits]; exact hc)
    levelsKeptOverCore.queue h e

end Sys2Proof.Machine

/-! PROOFS. Every step keeps the ramp table in order, with no LOCAL ramp in a zone that is not FREE (R125, R126, R149). -/

namespace Sys2Proof.Machine

/-! ## What a request for a ramp makes of the table (R125) -/

/-- A new ramp goes behind those of lower slots and ahead of those of higher ones. -/
theorem insertRamp_split (r : Ramp) {l : List Ramp} (sorted : (l.map (·.binding)).Pairwise (· < ·))
    (new : ∀ q ∈ l, q.binding ≠ r.binding) :
    ∃ l1 l2, l = l1 ++ l2 ∧ (∀ q ∈ l1, q.binding < r.binding) ∧ (∀ q ∈ l2, r.binding < q.binding) ∧
      insertRamp r l = l1 ++ r :: l2 := by
  induction l with
  | nil => exact ⟨[], [], rfl, by simp, by simp, rfl⟩
  | cons q l ih =>
    obtain ⟨above, sorted⟩ := List.pairwise_cons.mp sorted
    unfold insertRamp
    split
    · next le =>
      have lt : r.binding < q.binding := lt_of_le_of_ne le (Ne.symm (new q List.mem_cons_self))
      refine ⟨[], q :: l, rfl, by simp, fun p hp => ?_, rfl⟩
      rcases List.mem_cons.mp hp with rfl | hp
      · exact lt
      · exact lt.trans (above _ (List.mem_map_of_mem hp))
    · next gt =>
      obtain ⟨l1, l2, split, below, higher, inserted⟩ := ih sorted fun p hp => new p (List.mem_cons_of_mem _ hp)
      refine ⟨q :: l1, l2, by rw [split]; rfl, fun p hp => ?_, higher, by rw [inserted]; rfl⟩
      rcases List.mem_cons.mp hp with rfl | hp
      · exact lt_of_not_ge gt
      · exact below p hp

theorem requestRamp_of_room {r : Ramp} {s : State} (sorted : (s.ramps.map (·.binding)).Pairwise (· < ·))
    (new : ∀ q ∈ s.ramps, q.binding ≠ r.binding) (room : s.ramps.length < 16) :
    ∃ l1 l2, s.ramps = l1 ++ l2 ∧ (∀ q ∈ l1, q.binding < r.binding) ∧ (∀ q ∈ l2, r.binding < q.binding) ∧
      requestRamp r s = { s with ramps := l1 ++ r :: l2 } := by
  obtain ⟨l1, l2, split, below, higher, inserted⟩ := insertRamp_split r sorted new
  refine ⟨l1, l2, split, below, higher, ?_⟩
  have fresh : ¬ (s.ramps.any fun q => decide (q.binding = r.binding)) = true := by simpa using new
  rw [requestRamp, if_neg fresh, if_pos room, inserted]

theorem requestRamp_of_full {r : Ramp} {s : State} (new : ∀ q ∈ s.ramps, q.binding ≠ r.binding) (full : s.ramps.length = 16) :
    requestRamp r s = raise (.rampRefused r.binding r.scene) s := by
  have fresh : ¬ (s.ramps.any fun q => decide (q.binding = r.binding)) = true := by simpa using new
  rw [requestRamp, if_neg fresh, if_neg (by omega)]

/-- Slots ascend, so a binding has one ramp at most, and only that one is replaced. -/
theorem requestRamp_of_running {r q : Ramp} {s : State} {l1 l2 : List Ramp}
    (sorted : (s.ramps.map (·.binding)).Pairwise (· < ·)) (at_ : s.ramps = l1 ++ q :: l2) (same : q.binding = r.binding) :
    requestRamp r s = { s with ramps := l1 ++ r :: l2 } := by
  rw [at_, List.map_append, List.map_cons, List.pairwise_append, List.pairwise_cons] at sorted
  obtain ⟨-, ⟨higher, -⟩, lower⟩ := sorted
  have running : (s.ramps.any fun p => decide (p.binding = r.binding)) = true := by simp [at_, same]
  have left : l1.map (fun p => if p.binding = r.binding then r else p) = l1 :=
    (List.map_congr_left fun p hp => if_neg fun e =>
      absurd (lower _ (List.mem_map_of_mem hp) _ List.mem_cons_self) (by rw [e, same]; exact lt_irrefl _)).trans (List.map_id' l1)
  have right : l2.map (fun p => if p.binding = r.binding then r else p) = l2 :=
    (List.map_congr_left fun p hp => if_neg fun e =>
      absurd (higher _ (List.mem_map_of_mem hp)) (by rw [e, same]; exact lt_irrefl _)).trans (List.map_id' l2)
  rw [requestRamp, if_pos running, at_, List.map_append, List.map_cons, left, right, if_pos same]

/-! ## The table in order -/

/-- The two promises of O54 together. -/
structure RampsInOrder (s : State) : Prop where
  table : RampTableOk s
  zones : LocalRampsOnlyInFreeZones s

/-- Ramps that end, with every zone's state as it was or FREE. -/
theorem RampsInOrder.sublist {s t : State} (h : RampsInOrder s) (ramps : t.ramps.Sublist s.ramps)
    (free : ∀ r ∈ t.ramps, r.cls = .loc → (s.zones.get r.zone).state = .free → (t.zones.get r.zone).state = .free) :
    RampsInOrder t where
  table := ⟨ramps.length_le.trans h.table.short, h.table.ascending.sublist (ramps.map _),
    fun r hr => h.table.accumulators r (ramps.subset hr)⟩
  zones r hr hl := free r hr hl (h.zones r (ramps.subset hr) hl)

theorem RampsInOrder.congr {s t : State} (h : RampsInOrder s) (ramps : t.ramps = s.ramps) (zones : t.zones = s.zones) :
    RampsInOrder t := h.sublist (ramps ▸ .refl _) fun _ _ _ free => zones ▸ free

theorem RampsInOrder.empty {s : State} (e : s.ramps = []) : RampsInOrder s :=
  ⟨⟨by simp [e], by simp [e], by simp [e]⟩, fun r hr => by simp [e] at hr⟩

/-- A zone that is entered into HELD ends its LOCAL ramps, and one that is not FREE before has none (R149). -/
theorem RampsInOrder.enterZone {s : State} (h : RampsInOrder s) (z : ZoneId) (n : ZoneStateName)
    (into : n = .held ∨ n = .free ∨ (s.zones.get z).state ≠ .free) : RampsInOrder (enterZone z n s) := by
  refine h.sublist ?_ fun r hr hl free => ?_
  · rw [enterZone_ramps]
    split
    · exact List.filter_sublist
    · exact .refl _
  · rw [enterZone_zones, Table.get_set]
    split
    · next here =>
      rcases into with rfl | rfl | held
      · rw [enterZone_ramps, if_pos rfl] at hr
        simp [hl, here] at hr
      · rfl
      · exact absurd (here ▸ free) held
    · exact free

/-- Whichever way a ramp asked for is taken, it stands in the table in its place or not at all (R125). -/
theorem RampsInOrder.requestRamp {s : State} (h : RampsInOrder s) {r : Ramp} (fresh : r.accumulator = 0)
    (free : r.cls = .loc → (s.zones.get r.zone).state = .free) : RampsInOrder (requestRamp r s) := by
  have holds {l1 l2 : List Ramp} (short : (l1 ++ r :: l2).length ≤ 16)
      (ascending : ((l1 ++ r :: l2).map (·.binding)).Pairwise (· < ·)) (old : ∀ q, q ∈ l1 ∨ q ∈ l2 → q ∈ s.ramps) :
      RampsInOrder { s with ramps := l1 ++ r :: l2 } := by
    have each : ∀ q ∈ l1 ++ r :: l2, q = r ∨ q ∈ s.ramps := fun q hq => by
      rcases List.mem_append.mp hq with hq | hq
      · exact .inr (old q (.inl hq))
      · exact (List.mem_cons.mp hq).imp_right fun hq => old q (.inr hq)
    refine ⟨⟨short, ascending, fun q hq => ?_⟩, fun q hq => ?_⟩
    · rcases each q hq with rfl | hq
      · exact fresh ▸ Nat.zero_lt_succ 49
      · exact h.table.accumulators q hq
    · rcases each q hq with rfl | hq
      · exact free
      · exact h.zones q hq
  by_cases running : ∃ q ∈ s.ramps, q.binding = r.binding
  · obtain ⟨q, hq, same⟩ := running
    obtain ⟨l1, l2, at_⟩ := List.append_of_mem hq
    have table := h.table
    rw [requestRamp_of_running table.ascending at_ same]
    refine holds (by have := table.short; simpa [at_] using this) ?_ fun p hp => by simp [at_]; tauto
    have := table.ascending
    simpa [at_, same] using this
  · have new : ∀ q ∈ s.ramps, q.binding ≠ r.binding := fun q hq e => running ⟨q, hq, e⟩
    by_cases room : s.ramps.length < 16
    · obtain ⟨l1, l2, split, below, higher, e⟩ := requestRamp_of_room h.table.ascending new room
      rw [e]
      have ascending := h.table.ascending
      rw [split, List.map_append, List.pairwise_append] at ascending
      obtain ⟨left, right, across⟩ := ascending
      refine holds (by rw [split] at room; simp at room ⊢; omega) ?_ fun p hp => by simp [split]; tauto
      rw [List.map_append, List.map_cons, List.pairwise_append, List.pairwise_cons]
      refine ⟨left, ⟨fun b hb => ?_, right⟩, fun a ha b hb => ?_⟩
      · obtain ⟨q, hq, rfl⟩ := List.mem_map.mp hb
        exact higher q hq
      · obtain ⟨p, hp, rfl⟩ := List.mem_map.mp ha
        rcases List.mem_cons.mp hb with rfl | hb
        · exact below p hp
        · exact across _ ha _ hb
    · rw [requestRamp_of_full new (by have := h.table.short; omega)]
      exact h.congr (raise_ramps _ _) (raise_zones _ _)

theorem beginTurn_ramps (a : Option StationId) (s : State) : (beginTurn a s).ramps = s.ramps := rfl

theorem rampsKeptByWrites : KeptByWrites RampsInOrder where
  quiet h q := by
    unfold OnlyQuiet at q
    exact h.congr (by rw [q]) (by rw [q])
  raise r s h := h.congr (raise_ramps _ _) (raise_zones _ _)
  unreport s h := h.congr rfl rfl
  counted s h := h.congr rfl rfl
  enqueue e s h := by
    unfold enqueue
    split
    · exact h.congr rfl rfl
    · exact h
  unqueue s h := h.congr rfl rfl
  image v s h _ := h.congr rfl rfl
  enter z n s h into := h.enterZone z n into
  forced z f s h := h.sublist (.refl _) fun r _ _ free => by
    show ((s.zones.set z _).get r.zone).state = .free
    rw [Table.get_set]
    split
    · next here => rw [here]; exact free
    · exact free
  ramps w s h := h.sublist List.filter_sublist fun _ _ _ free => free
  requestRamp r s h fresh free := h.requestRamp fresh free
  ladder ch v s h _ := h.congr rfl rfl
  place c n fade s h _ _ := by
    have frame := place_frame c n fade s
    unfold OnlyClaims at frame
    exact h.congr (by rw [frame]) (by rw [frame])
  lose circuits s h _ := h.congr rfl rfl
  mains m s h := h.congr rfl rfl
  crossings s h := h.congr rfl rfl
  dwell c s h _ := h.congr rfl rfl
  tick s h := by
    rw [levelTick_frame]
    refine ⟨⟨?_, ?_, fun r hr => ?_⟩, fun r hr => ?_⟩
    · simpa using h.table.short
    · simpa [Function.comp_def, Ramp.advance] using h.table.ascending
    · obtain ⟨q, -, rfl⟩ := List.mem_map.mp hr
      exact q.advance_accumulator_lt
    · obtain ⟨q, hq, rfl⟩ := List.mem_map.mp hr
      exact h.zones q hq
  writeScene _ _ _ h _ _ := h.congr rfl rfl
  writeCircuit _ _ _ h _ := h.congr rfl rfl
  storeZone _ _ _ h _ := h.congr rfl rfl
  writeAnnunciator _ _ _ h := h.congr rfl rfl
  storeGeneral _ _ h _ := h.congr rfl rfl
  passed s h := h.sublist (.refl _) fun r _ _ free => by simpa [passTime] using free
  storeInput _ _ _ h _ _ := h.congr rfl rfl
  storeLadder _ _ _ h _ := h.congr rfl rfl
  storeStation _ _ _ h _ := h.congr rfl rfl
  storeBinding _ _ _ h _ _ := h.congr rfl rfl
  restart s h := by
    have none : ∀ (l : List ZoneId) (u : State), u.ramps = [] → (l.foldl restartZone u).ramps = [] := fun l u hu => by
      refine foldl_kept (P := fun u : State => u.ramps = []) (fun u z hu => ?_) l u hu
      unfold restartZone
      dsimp only
      split
      · exact hu
      · rw [enterZone_ramps, hu]
        split <;> rfl
    refine .empty ?_
    rw [warmRestart_eq, beginTurn_ramps]
    exact none _ s.restarting rfl
  started causes s h := .empty (by unfold loadAndStart; split <;> simp [startFrom, beginTurn, startZones, State.reset])
  unpowered s h := .empty (by simp [losePower, State.reset])

/-- Settles O54: a ramp enters the table by R125's request alone, of a LOCAL binding only in a zone that is FREE, and a zone
leaves FREE only for HELD, which ends its LOCAL ramps. -/
theorem stepsKeepRampsInOrder : Obligations.StepsKeepRampsInOrder := fun _ _ h e =>
  have kept := rampsKeptByWrites.keeps_of_tracker (fun _ _ _ h => h.congr (by simp) (by simp))
    (fun _ _ h => h.congr rfl rfl) ⟨h.1, h.2⟩ e
  ⟨kept.table, kept.zones⟩

end Sys2Proof.Machine

/-! PROOFS. Every step keeps the link's queues, its lost count and the stable decodes bounded (R14, R180, R181). -/

namespace Sys2Proof.Machine

/-- The bounds read the queues, the count and the channels alone. -/
theorem CountsBounded.congr {s t : State} (h : CountsBounded s) (requests : t.requests = s.requests)
    (reports : t.reports = s.reports) (lost : t.lost = s.lost) (ladders : t.ladders = s.ladders) : CountsBounded t :=
  ⟨requests ▸ h.requests, reports ▸ h.reports, lost ▸ h.lost, ladders ▸ h.decodes⟩

/-- R181: a report is queued below 32, or counted up to 255. -/
theorem CountsBounded.raise {s : State} (h : CountsBounded s) (r : Report) : CountsBounded (raise r s) := by
  unfold Machine.raise
  split
  · split
    · next room => exact ⟨h.requests, by simpa using room, h.lost, h.decodes⟩
    · exact ⟨h.requests, h.reports, Nat.min_le_left _ _, h.decodes⟩
  · exact h

theorem CountsBounded.enterZone {s : State} (h : CountsBounded s) (z : ZoneId) (n : ZoneStateName) :
    CountsBounded (enterZone z n s) := by
  unfold Machine.enterZone
  refine CountsBounded.raise ?_ _
  split <;> exact h.congr rfl rfl rfl rfl

theorem CountsBounded.requestRamp {s : State} (h : CountsBounded s) (r : Ramp) : CountsBounded (requestRamp r s) := by
  unfold Machine.requestRamp
  split
  · exact h.congr rfl rfl rfl rfl
  · split
    · exact h.congr rfl rfl rfl rfl
    · exact h.raise _

theorem CountsBounded.place {s : State} (h : CountsBounded s) (c : CircuitId) (n : Claim) (fade : Nat) :
    CountsBounded (place c n fade s) := by
  unfold Machine.place
  dsimp only
  split
  · exact h.congr rfl rfl rfl rfl
  · refine CountsBounded.raise ?_ _
    exact h.congr rfl rfl rfl rfl
  · exact h.raise _

theorem CountsBounded.setLadder {s : State} (h : CountsBounded s) (ch : ChannelId) {v : LadderState}
    (decode : v.decode = (s.ladders.get ch).decode ∨ v.decode ≤ 6) : CountsBounded (s.setLadder ch v) where
  requests := h.requests
  reports := h.reports
  lost := h.lost
  decodes := Table.forall_set (Q := fun _ x => LadderState.decode x ≤ 6) h.decodes
    (decode.elim (fun e => e ▸ h.decodes ch) id)

theorem CountsBounded.restartZone {s : State} (h : CountsBounded s) (z : ZoneId) : CountsBounded (restartZone s z) := by
  unfold Machine.restartZone
  dsimp only
  split
  · exact h.congr rfl rfl rfl rfl
  · exact h.enterZone _ _

/-- A start finds the link empty and the decodes 0 (R20, R183). -/
theorem startFrom_countsBounded (c : Settings) (v : Option Settings) (causes : ResetCauses) (d : Nat) (q : List Instr) :
    CountsBounded (startFrom c v causes d q) where
  requests := by simp [startFrom, beginTurn, startZones, State.reset]
  reports := by simp [startFrom, beginTurn, startZones, State.reset]
  lost := by simp [startFrom, beginTurn, startZones, State.reset]
  decodes ch := by
    simp only [startFrom, beginTurn, startZones, Table.get_ofFn, startedLadder]
    split <;> simp [LadderState.started, LadderState.off]

theorem countsKeptByWrites : KeptByWrites CountsBounded where
  quiet h q := by
    unfold OnlyQuiet at q
    exact h.congr (by rw [q]) (by rw [q]) (by rw [q]) (by rw [q])
  raise r s h := h.raise r
  unreport s h := ⟨h.requests, by have := h.reports; simp; omega, h.lost, h.decodes⟩
  counted s h := ⟨h.requests, h.reports, Nat.zero_le _, h.decodes⟩
  enqueue e s h := by
    unfold enqueue
    split
    · next room => exact ⟨by simpa using room, h.reports, h.lost, h.decodes⟩
    · exact h
  unqueue s h := ⟨by have := h.requests; simp; omega, h.reports, h.lost, h.decodes⟩
  image v s h _ := h.congr rfl rfl rfl rfl
  enter z n s h _ := h.enterZone z n
  forced z f s h := h.congr rfl rfl rfl rfl
  ramps w s h := h.congr rfl rfl rfl rfl
  requestRamp r s h _ _ := h.requestRamp r
  ladder ch v s h decode := h.setLadder ch decode
  place c n fade s h _ _ := h.place c n fade
  lose circuits s h _ := h.congr rfl rfl rfl rfl
  mains m s h := h.congr rfl rfl rfl rfl
  crossings s h := h.congr rfl rfl rfl rfl
  dwell c s h _ := h.congr rfl rfl rfl rfl
  tick s h := by
    rw [levelTick_frame]
    exact h.congr rfl rfl rfl rfl
  writeScene _ _ _ h _ _ := h.congr rfl rfl rfl rfl
  writeCircuit _ _ _ h _ := h.congr rfl rfl rfl rfl
  storeZone _ _ _ h _ := h.congr rfl rfl rfl rfl
  writeAnnunciator _ _ _ h := h.congr rfl rfl rfl rfl
  storeGeneral _ _ h _ := h.congr rfl rfl rfl rfl
  passed s h := h.congr rfl rfl rfl rfl
  storeInput _ _ _ h _ _ := h.congr rfl rfl rfl rfl
  storeLadder _ _ _ h _ := h.congr rfl rfl rfl rfl
  storeStation _ _ _ h _ := h.congr rfl rfl rfl rfl
  storeBinding _ _ _ h _ _ := h.congr rfl rfl rfl rfl
  restart s h := by
    have emptied : CountsBounded s.restarting := ⟨h.requests, Nat.zero_le _, Nat.zero_le _, h.decodes⟩
    have restarted := foldl_kept (P := CountsBounded) (fun u z hu => CountsBounded.restartZone hu z) (List.finRange 16)
      s.restarting emptied
    rw [warmRestart_eq]
    generalize (List.finRange 16).foldl restartZone s.restarting = u at restarted ⊢
    exact restarted.congr rfl rfl rfl rfl
  started causes s h := by
    unfold loadAndStart
    split <;> exact startFrom_countsBounded _ _ _ _ _
  unpowered s h := by
    refine ⟨?_, ?_, ?_, fun ch => ?_⟩ <;> simp [losePower, State.reset, LadderState.off]

/-- Settles O59: entries and reports join their queues only where there is room, and a decode is a window's number. -/
theorem stepsKeepCountsBounded : Obligations.StepsKeepCountsBounded := fun _ _ h e =>
  countsKeptByWrites.keeps_of_tracker (fun _ _ _ h => h.congr (by simp) (by simp) (by simp) (by simp))
    (fun _ _ h => h.congr rfl rfl rfl rfl) h e

end Sys2Proof.Machine

/-! PROOFS. Every step keeps every zone HELD exactly while it is called, with its timer running exactly in RELEASING (R142, R143,
R147, R155, R156). -/

namespace Sys2Proof.Machine

/-! ## What the conditions read -/

/-- Every zone follows its conditions. -/
def AllFollow (s : State) : Prop := ∀ z, FollowsAt s z

theorem zonesFollowConditions_iff {s : State} : ZonesFollowConditions s ↔ AllFollow s ∧ ChannelsFollowFunctions s :=
  ⟨fun h => ⟨fun z => ⟨h.held z, h.timers z⟩, h.channels⟩, fun h => ⟨fun z => (h.1 z).held, fun z => (h.1 z).timer, h.2⟩⟩

theorem ZonesFollowConditions.follow {s : State} (h : ZonesFollowConditions s) : AllFollow s :=
  (zonesFollowConditions_iff.mp h).1

theorem FollowsAt.congr {s t : State} {z : ZoneId} (h : FollowsAt s z) (zone : t.zones.get z = s.zones.get z)
    (active : activeMasked t z = activeMasked s z) : FollowsAt t z := by
  have same : called t z = called s z := by
    unfold called
    rw [zone, active]
  exact ⟨by rw [same, zone]; exact h.held, by rw [zone]; exact h.timer⟩

/-- The zones and what their conditions read are the same. -/
theorem AllFollow.congr {s t : State} (h : AllFollow s) (zones : t.zones = s.zones)
    (active : ∀ z, activeMasked t z = activeMasked s z) : AllFollow t :=
  fun z => (h z).congr (by rw [zones]) (active z)

/-- What has changed is told to every zone whose masked conditions it may have moved (R143). -/
theorem AllFollow.told {s t : State} (h : AllFollow s) {p : ZoneId → Bool} (zones : t.zones = s.zones)
    (active : ∀ z, p z = false → activeMasked t z = activeMasked s z) : AllFollow (reevaluateWhere p t) :=
  FollowsAt.reevaluateWhere (fun z hp => (h z).congr (by rw [zones]) (active z hp))
    (fun z => by rw [zones]; exact (h z).timer)

theorem AllFollow.toldOne {s t : State} (h : AllFollow s) {home : ZoneId} (zones : t.zones = s.zones)
    (active : ∀ z, z ≠ home → activeMasked t z = activeMasked s z) : AllFollow (reevaluate home t) := by
  rw [← reevaluateWhere_single]
  exact h.told zones fun z hp => active z (by simpa using hp)

theorem stationMissing_congr {s t : State} {z : ZoneId}
    (each : ∀ a, ((t.settings.stations.get a).enabled && decide ((t.settings.stations.get a).homeZone = z)
        && (t.stations.get a).state.lost && !(t.stations.get a).uncounted) =
      ((s.settings.stations.get a).enabled && decide ((s.settings.stations.get a).homeZone = z)
        && (s.stations.get a).state.lost && !(s.stations.get a).uncounted)) : stationMissing t z = stationMissing s z := by
  unfold stationMissing
  simp only [each]

theorem ladderFault_congr {s t : State} {z : ZoneId}
    (each : ∀ ch, (decide ((t.settings.ladders.get ch).homeZone = z) && decide ((t.ladders.get ch).state = .fault)) =
      (decide ((s.settings.ladders.get ch).homeZone = z) && decide ((s.ladders.get ch).state = .fault))) :
    ladderFault t z = ladderFault s z := by
  unfold ladderFault
  simp only [each]

theorem getLsbD_conditionBit {n i : Nat} (hi : i < 12) (b : Bool) :
    (conditionBit n b).getLsbD i = (decide (n = i) && b) := by
  unfold conditionBit
  cases b
  · simp
  · simp [hi, eq_comm]

/-- A zone's active masked conditions stay where each condition that its mask includes stays (R142). -/
theorem activeMasked_congr {s t : State} {z : ZoneId} (mask : (t.settings.zones.get z).mask = (s.settings.zones.get z).mask)
    (flags : (s.settings.zones.get z).mask &&& (s.flags ^^^ t.flags).setWidth 12 = 0)
    (stations : stationMissing t z = stationMissing s z) (ladders : ladderFault t z = ladderFault s z)
    (silent : masks s silentBit z = true → linkSilent t = linkSilent s)
    (mains : masks s mainsBit z = true → mainsUnlocked t = mainsUnlocked s) : activeMasked t z = activeMasked s z := by
  refine BitVec.eq_of_getLsbD_eq fun i hi => ?_
  have flag : (s.settings.zones.get z).mask.getLsbD i = true → t.flags.getLsbD i = s.flags.getLsbD i := fun hm => by
    have bit := congrArg (fun v => BitVec.getLsbD v i) flags
    simp only [BitVec.getLsbD_and, BitVec.getLsbD_setWidth, BitVec.getLsbD_xor, hi, decide_true, hm, Bool.true_and] at bit
    have same : s.flags.getLsbD i = t.flags.getLsbD i := by simpa using bit
    exact same.symm
  simp only [activeMasked, activeConditions, BitVec.getLsbD_and, BitVec.getLsbD_or, BitVec.getLsbD_setWidth,
    getLsbD_conditionBit hi, hi, decide_true, Bool.true_and, mask, stations, ladders]
  cases hm : (s.settings.zones.get z).mask.getLsbD i with
  | false => simp
  | true =>
    have here {n : Nat} {b c : Bool} (same : (s.settings.zones.get z).mask.getLsbD n = true → b = c) :
        (decide (n = i) && b) = (decide (n = i) && c) := by
      by_cases e : n = i
      · rw [same (e ▸ hm)]
      · simp [e]
    rw [flag hm, here (n := 10) silent, here (n := 11) mains]

theorem masked_unchanged (m : BitVec 12) (f : BitVec 8) : m &&& (f ^^^ f).setWidth 12 = 0 := by simp

/-! ## Nothing that the conditions read -/

/-- Nothing that a zone's conditions or the channels' functions are read from. -/
def OnlyUncalled (s t : State) : Prop :=
  t = { s with
    settings := { s.settings with
      bindings := t.settings.bindings, scenes := t.settings.scenes, circuits := t.settings.circuits,
      annunciators := t.settings.annunciators, general := t.settings.general }
    power := t.power, image := t.image, saving := t.saving, causes := t.causes, inputs := t.inputs, turn := t.turn,
    contactTrackers := t.contactTrackers, ladderTrackers := t.ladderTrackers, stationTrackers := t.stationTrackers,
    circuits := t.circuits, ramps := t.ramps, frameCount := t.frameCount, refresh := t.refresh, enables := t.enables,
    framer := t.framer, requests := t.requests, replySlot := t.replySlot, carrying := t.carrying, ahead := t.ahead,
    sending := t.sending, reports := t.reports, lost := t.lost, draws := t.draws, pending := t.pending }

theorem OnlyUncalled.zones {s t : State} (h : OnlyUncalled s t) : t.zones = s.zones := by
  unfold OnlyUncalled at h
  rw [h]

theorem OnlyUncalled.active {s t : State} (h : OnlyUncalled s t) (z : ZoneId) : activeMasked t z = activeMasked s z := by
  unfold OnlyUncalled at h
  rw [h]
  rfl

theorem OnlyUncalled.channels {s t : State} (h : OnlyUncalled s t) (c : ChannelsFollowFunctions s) :
    ChannelsFollowFunctions t := by
  unfold OnlyUncalled at h
  rw [h]
  exact c

theorem AllFollow.uncalled {s t : State} (h : AllFollow s) (only : OnlyUncalled s t) : AllFollow t :=
  h.congr only.zones only.active

theorem ZonesFollowConditions.uncalled {s t : State} (h : ZonesFollowConditions s) (only : OnlyUncalled s t) :
    ZonesFollowConditions t := zonesFollowConditions_iff.mpr ⟨h.follow.uncalled only, only.channels h.channels⟩

theorem OnlyClaims.uncalled {s t : State} (h : OnlyClaims s t) : OnlyUncalled s t := by
  unfold OnlyClaims at h
  rw [h]
  rfl

theorem OnlyReports.uncalled {s t : State} (h : OnlyReports s t) : OnlyUncalled s t := by
  unfold OnlyReports at h
  rw [h]
  rfl

/-- What is told to the zones leaves the channels and the functions of their inputs as they are. -/
theorem ChannelsFollowFunctions.congr {s t : State} (h : ChannelsFollowFunctions s)
    (ladders : ∀ ch, (t.ladders.get ch).state = .inactive ↔ (s.ladders.get ch).state = .inactive)
    (inputs : ∀ i, (t.settings.inputs.get i).function = (s.settings.inputs.get i).function) : ChannelsFollowFunctions t :=
  fun ch => by rw [ladders, inputs]; exact h ch

theorem OnlyZones.channels {s t : State} (h : OnlyZones s t) (c : ChannelsFollowFunctions s) : ChannelsFollowFunctions t := by
  unfold OnlyZones at h
  rw [h]
  exact c

theorem ZonesFollowConditions.toldWhere {s t : State} (h : ZonesFollowConditions s) {p : ZoneId → Bool}
    (zones : t.zones = s.zones) (active : ∀ z, p z = false → activeMasked t z = activeMasked s z)
    (channels : ChannelsFollowFunctions t) : ZonesFollowConditions (reevaluateWhere p t) :=
  zonesFollowConditions_iff.mpr ⟨h.follow.told zones active, (reevaluateWhere_frame _ _).channels channels⟩

theorem ZonesFollowConditions.toldHome {s t : State} (h : ZonesFollowConditions s) {home : ZoneId}
    (zones : t.zones = s.zones) (active : ∀ z, z ≠ home → activeMasked t z = activeMasked s z)
    (channels : ChannelsFollowFunctions t) : ZonesFollowConditions (reevaluate home t) :=
  zonesFollowConditions_iff.mpr ⟨h.follow.toldOne zones active, (reevaluate_frame _ _).channels channels⟩

/-! ## The zone unit's own operations -/

theorem ZonesFollowConditions.changeFlags {s : State} (h : ZonesFollowConditions s) (v : BitVec 8) :
    ZonesFollowConditions (changeFlags v s) := by
  refine h.toldWhere (t := { s with flags := v }) rfl (fun z hp => ?_) h.channels
  have apart : (s.settings.zones.get z).mask &&& (s.flags ^^^ v).setWidth 12 = 0 := by simpa using hp
  exact activeMasked_congr rfl apart rfl rfl (fun _ => rfl) fun _ => rfl

/-- A zone's own record does not change which conditions are active. -/
theorem activeMasked_setZone (s : State) (z : ZoneId) (v : Zone) (y : ZoneId) :
    activeMasked (s.setZone z v) y = activeMasked s y := rfl

theorem AllFollow.forced_others {s : State} (h : AllFollow s) {z y : ZoneId} (f : Bool) (other : y ≠ z) :
    FollowsAt (s.setZone z { s.zones.get z with force := f }) y :=
  (h y).congr (Table.get_set_ne _ _ other.symm) (activeMasked_setZone _ _ _ _)

theorem ZonesFollowConditions.forceZone {s : State} (h : ZonesFollowConditions s) (z : ZoneId) :
    ZonesFollowConditions (forceZone z s) := by
  refine zonesFollowConditions_iff.mpr ⟨?_, (forceZone_frame z s).channels h.channels⟩
  unfold Machine.forceZone
  split
  · exact h.follow
  · refine fun y => FollowsAt.reevaluate ?_ fun other => h.follow.forced_others true other
    simpa using h.timers z

theorem releaseTo_held_iff {zs : ZoneSettings} {c : Bool} {n : ZoneStateName} (h : c = true → n = .held) :
    releaseTo zs c n = .held ↔ c = true := by
  cases n with
  | held =>
    cases c
    · simp only [releaseTo, Bool.false_eq_true, if_false, iff_false]
      cases zs.mode with
      | manual => simp
      | auto => dsimp only; split <;> simp
    · simp [releaseTo]
  | free | releasing | awaiting =>
    have : c = false := by
      cases c
      · rfl
      · cases h rfl
    simp [releaseTo, this]

theorem ZonesFollowConditions.releaseZone {s : State} (h : ZonesFollowConditions s) (z : ZoneId) :
    ZonesFollowConditions (releaseZone z s) := by
  refine zonesFollowConditions_iff.mpr ⟨?_, (releaseZone_frame z s).channels h.channels⟩
  have state : ((s.setZone z { s.zones.get z with force := false }).zones.get z).state = (s.zones.get z).state := by simp
  have weaker : called (s.setZone z { s.zones.get z with force := false }) z = true → (s.zones.get z).state = .held := by
    intro c
    refine (h.held z).mpr ?_
    unfold called at c ⊢
    rw [activeMasked_setZone] at c
    simp at c ⊢
    exact .inr c
  have next := releaseTo_held_iff (zs := s.settings.zones.get z) (n := (s.zones.get z).state) weaker
  unfold Machine.releaseZone
  dsimp only
  rw [state]
  split
  · next same =>
    intro y
    by_cases here : y = z
    · subst here
      refine ⟨?_, ?_⟩
      · rw [state]
        exact ⟨fun e => next.mp (same.trans e), fun c => same.symm.trans (next.mpr c)⟩
      · simpa using h.timers y
    · exact h.follow.forced_others false here
  · exact fun y => FollowsAt.enter next fun other => h.follow.forced_others false other

/-! ## The link and the mains -/

theorem ZonesFollowConditions.setSilence {s : State} (h : ZonesFollowConditions s) (v : SilenceTimer) :
    ZonesFollowConditions (setSilence v s) := by
  unfold Machine.setSilence
  dsimp only
  split
  · next same =>
    exact zonesFollowConditions_iff.mpr ⟨h.follow.congr rfl fun z =>
      activeMasked_congr rfl (masked_unchanged _ _) rfl rfl (fun _ => same.symm) fun _ => rfl, h.channels⟩
  · exact h.toldWhere rfl (fun z hp => activeMasked_congr rfl (masked_unchanged _ _) rfl rfl
      (fun masked => absurd (hp.symm.trans masked) (by simp)) fun _ => rfl) h.channels

theorem ZonesFollowConditions.changeMains {s : State} (h : ZonesFollowConditions s) (m : Mains) :
    ZonesFollowConditions (changeMains m s) := by
  rw [changeMains_stages]
  dsimp only
  generalize hu : ({ s with
    mains := m
    circuits := if s.mains.state = .locked ∧ m.state ≠ .locked then (applyCrossings s).circuits else s.circuits } : State) = u
  generalize hv : (if s.mains.state = m.state then u else raise (.mains m.state m.lastInterval) u) = v
  have only : OnlyUncalled { s with mains := m } v := by
    subst hv hu
    split
    · rfl
    · exact (raise_frame _ _).uncalled
  have active (z : ZoneId) (same : masks s mainsBit z = true → (s.mains.state = .locked ↔ m.state = .locked)) :
      activeMasked v z = activeMasked s z :=
    (only.active z).trans (activeMasked_congr rfl (masked_unchanged _ _) rfl rfl (fun _ => rfl) fun masked => by
      simp [mainsUnlocked, same masked])
  split
  · next same =>
    exact zonesFollowConditions_iff.mpr ⟨h.follow.congr only.zones fun z => active z fun _ => same, only.channels h.channels⟩
  · exact h.toldWhere only.zones (fun z hp => active z fun masked => absurd (hp.symm.trans masked) (by simp))
      (only.channels h.channels)

end Sys2Proof.Machine

/-! PROOFS. The blocks, the writes and the starts keep the zones under their conditions (R18, R39, R40, R143, R155, R156). -/

namespace Sys2Proof.Machine

/-! ## The stations and the channels -/

/-- What a station address contributes to STATION_MISSING of a zone (R40). -/
def countsFor (cs : StationSettings) (st : StationState) (z : ZoneId) : Bool :=
  cs.enabled && decide (cs.homeZone = z) && st.state.lost && !st.uncounted

/-- What a channel contributes to LADDER_FAULT of a zone (R18). -/
def faultsFor (cs : LadderSettings) (l : LadderState) (z : ZoneId) : Bool :=
  decide (cs.homeZone = z) && decide (l.state = .fault)

/-- One address's settings and running record replaced. -/
def State.recordStation (a : StationId) (cs : StationSettings) (st : StationState) (s : State) : State :=
  (storeStation a cs s).setStation a st

/-- One channel's settings and running record replaced. -/
def State.recordLadder (ch : ChannelId) (cs : LadderSettings) (l : LadderState) (s : State) : State :=
  (storeLadder ch cs s).setLadder ch l

theorem setStation_eq_record (a : StationId) (st : StationState) (s : State) :
    s.setStation a st = s.recordStation a (s.settings.stations.get a) st := by
  simp [State.recordStation, storeStation, State.setStation, State.setSettings]

theorem setLadder_eq_record (ch : ChannelId) (l : LadderState) (s : State) :
    s.setLadder ch l = s.recordLadder ch (s.settings.ladders.get ch) l := by
  simp [State.recordLadder, storeLadder, State.setLadder, State.setSettings]

theorem storeLadder_eq_record (ch : ChannelId) (cs : LadderSettings) (s : State) :
    storeLadder ch cs s = s.recordLadder ch cs (s.ladders.get ch) := by
  simp [State.recordLadder, storeLadder, State.setLadder, State.setSettings]

theorem activeMasked_recordStation {a : StationId} {cs : StationSettings} {st : StationState} {s : State} {z : ZoneId}
    (same : countsFor cs st z = countsFor (s.settings.stations.get a) (s.stations.get a) z) :
    activeMasked (s.recordStation a cs st) z = activeMasked s z := by
  refine activeMasked_congr rfl (masked_unchanged _ _) (stationMissing_congr fun b => ?_) rfl (fun _ => rfl) fun _ => rfl
  show countsFor ((s.settings.stations.set a cs).get b) ((s.stations.set a st).get b) z =
    countsFor (s.settings.stations.get b) (s.stations.get b) z
  by_cases e : a = b
  · subst e
    simpa using same
  · rw [Table.get_set_ne _ _ e, Table.get_set_ne _ _ e]

theorem activeMasked_recordLadder {ch : ChannelId} {cs : LadderSettings} {l : LadderState} {s : State} {z : ZoneId}
    (same : faultsFor cs l z = faultsFor (s.settings.ladders.get ch) (s.ladders.get ch) z) :
    activeMasked (s.recordLadder ch cs l) z = activeMasked s z := by
  refine activeMasked_congr rfl (masked_unchanged _ _) rfl (ladderFault_congr fun c => ?_) (fun _ => rfl) fun _ => rfl
  show faultsFor ((s.settings.ladders.set ch cs).get c) ((s.ladders.set ch l).get c) z =
    faultsFor (s.settings.ladders.get c) (s.ladders.get c) z
  by_cases e : ch = c
  · subst e
    simpa using same
  · rw [Table.get_set_ne _ _ e, Table.get_set_ne _ _ e]

theorem countsFor_elsewhere {cs : StationSettings} {z : ZoneId} (h : z ≠ cs.homeZone) (st : StationState) :
    countsFor cs st z = false := by simp [countsFor, h.symm]

theorem faultsFor_elsewhere {cs : LadderSettings} {z : ZoneId} (h : z ≠ cs.homeZone) (l : LadderState) :
    faultsFor cs l z = false := by simp [faultsFor, h.symm]

theorem faultsFor_of_not_fault {l : LadderState} (h : l.state ≠ .fault) (cs : LadderSettings) (z : ZoneId) :
    faultsFor cs l z = false := by simp [faultsFor, h]

/-- A channel's record changes, and whether it is sampled does not. -/
theorem ChannelsFollowFunctions.recordLadder {s : State} (h : ChannelsFollowFunctions s) {ch : ChannelId}
    {cs : LadderSettings} {l : LadderState} (same : l.state = .inactive ↔ (s.ladders.get ch).state = .inactive) :
    ChannelsFollowFunctions (s.recordLadder ch cs l) := by
  refine h.congr (fun c => ?_) fun _ => rfl
  show ((s.ladders.set ch l).get c).state = .inactive ↔ _
  rw [Table.get_set]
  split
  · next e => subst e; exact same
  · exact Iff.rfl

theorem enterStation_frame (a : StationId) (v : StationState) (s : State) :
    OnlyReports (s.setStation a v) (enterStation a v s) := by
  unfold enterStation
  split
  · rfl
  · exact raise_frame _ _

theorem ZonesFollowConditions.stationKnown {s : State} (h : ZonesFollowConditions s) (a : StationId) (v : StationState) :
    ZonesFollowConditions (reevaluate (s.settings.stations.get a).homeZone (enterStation a v s)) := by
  have only := (enterStation_frame a v s).uncalled
  refine h.toldHome only.zones (fun z other => ?_) (only.channels h.channels)
  rw [only.active, setStation_eq_record]
  exact activeMasked_recordStation (by rw [countsFor_elsewhere other, countsFor_elsewhere other])

theorem ZonesFollowConditions.ladderKnown {s : State} (h : ZonesFollowConditions s) {ch : ChannelId} {v : LadderState}
    (n : ChannelState) (same : v.state = .inactive ↔ (s.ladders.get ch).state = .inactive) :
    ZonesFollowConditions (ladderMadeKnown ch n (s.setLadder ch v)) := by
  have only := (raise_frame (.ladder ch n) (s.setLadder ch v)).uncalled
  unfold ladderMadeKnown
  refine h.toldHome only.zones (fun z other => ?_) (only.channels ?_)
  · rw [only.active, setLadder_eq_record]
    have other : z ≠ (s.settings.ladders.get ch).homeZone := other
    exact activeMasked_recordLadder (by rw [faultsFor_elsewhere other, faultsFor_elsewhere other])
  · rw [setLadder_eq_record]
    exact h.channels.recordLadder same

/-! ## Time, tick and general settings -/

theorem linkSilent_passTime (s : State) : linkSilent (passTime s) = linkSilent s := by
  cases h : s.silence <;> simp [linkSilent, passTime, SilenceTimer.passTime, h]

theorem ZonesFollowConditions.passTime {s : State} (h : ZonesFollowConditions s) : ZonesFollowConditions (passTime s) := by
  refine zonesFollowConditions_iff.mpr ⟨fun z => ?_, h.channels⟩
  have active : activeMasked (Machine.passTime s) z = activeMasked s z :=
    activeMasked_congr rfl (masked_unchanged _ _)
      (stationMissing_congr fun a => by
        simp only [Machine.passTime, Table.get_map]
        rfl) rfl (fun _ => linkSilent_passTime s) fun _ => rfl
  have zone : (Machine.passTime s).zones.get z = { s.zones.get z with timer := countDown (s.zones.get z).timer } := by
    simp [Machine.passTime]
  have same : called (Machine.passTime s) z = called s z := by
    unfold called
    rw [zone, active]
  refine ⟨?_, ?_⟩
  · rw [same, zone]
    exact h.held z
  · rw [zone]
    simpa [countDown] using h.timers z

theorem ZonesFollowConditions.writeGeneral {s : State} (h : ZonesFollowConditions s) (g : GeneralSettings) :
    ZonesFollowConditions (writeGeneral g s) := by
  have stored : ZonesFollowConditions (s.setSettings { s.settings with general := g }) := h.uncalled rfl
  have tracked : ZonesFollowConditions (if s.settings.general.nominal = g.nominal then
      s.setSettings { s.settings with general := g } else renominate (s.setSettings { s.settings with general := g })) := by
    split
    · exact stored
    · exact stored.changeMains _
  unfold Machine.writeGeneral
  dsimp only
  split
  · exact tracked
  · exact tracked.setSilence _

theorem ZonesFollowConditions.writeZone {s : State} (h : ZonesFollowConditions s) (z : ZoneId) (zs : ZoneSettings) :
    ZonesFollowConditions (writeZone z zs s) := by
  refine h.toldHome (t := s.setSettings { s.settings with zones := s.settings.zones.set z zs }) rfl (fun y other => ?_) h.channels
  have mask : ((s.settings.zones.set z zs).get y).mask = (s.settings.zones.get y).mask := by
    rw [Table.get_set_ne _ _ other.symm]
  exact activeMasked_congr mask (masked_unchanged _ _) rfl rfl (fun _ => rfl) fun _ => rfl

theorem ZonesFollowConditions.receiveEntry {s : State} (h : ZonesFollowConditions s) (e : Entry) :
    ZonesFollowConditions (receiveEntry e s) := by
  have queued {u : State} (hu : ZonesFollowConditions u) : ZonesFollowConditions (enqueue e u) := by
    unfold enqueue
    split
    · exact hu.uncalled rfl
    · exact hu
  cases e with
  | request k p => exact queued (h.setSilence _)
  | damaged => exact queued h

/-! ## The actions -/

theorem ZonesFollowConditions.claims {s t : State} (h : ZonesFollowConditions s) (only : OnlyClaims s t) :
    ZonesFollowConditions t := h.uncalled only.uncalled

theorem ZonesFollowConditions.requestRamp {s : State} (h : ZonesFollowConditions s) (r : Ramp) :
    ZonesFollowConditions (requestRamp r s) := h.uncalled (by rw [requestRamp_frame]; rfl)

theorem ZonesFollowConditions.runAction {s : State} (h : ZonesFollowConditions s) (b : SlotId) (x : Binding) :
    ZonesFollowConditions (runAction b x s) := by
  unfold Machine.runAction
  split
  · exact h.claims (placeScene_frame _ _ _ _ _)
  · exact h.claims (withdrawScene_frame _ _ _ _)
  · unfold actSceneToggle
    split
    · exact h.claims (withdrawScene_frame _ _ _ _)
    · exact h.claims (placeScene_frame _ _ _ _ _)
  · exact h.claims (place_frame _ _ _ _)
  · exact h.claims (withdraw_frame _ _ _ _)
  · exact (h.claims (placeMissing_frame _ _ _ _)).requestRamp _
  · exact h.requestRamp _
  · exact h.claims (clearZone_frame _ _ _)
  · exact h.changeFlags _
  · exact h.changeFlags _
  · exact h.changeFlags _
  · exact h.forceZone _
  · exact h.releaseZone _
  · exact h

theorem zonesKeptByActions : KeptByActions ZonesFollowConditions where
  serve s h := by
    rcases serve_cases s with ⟨_, _, e⟩ | ⟨_, _, _, e⟩ | ⟨_, _, _, _, _, _, e⟩ | ⟨_, _, _, e⟩ <;> rw [e]
    · exact h
    · exact h.uncalled rfl
    · exact h.uncalled rfl
    · exact h
  receive e _ h := h.receiveEntry e
  unqueue _ h := h.uncalled rfl
  reply _ _ h := h.uncalled rfl
  drawn _ h := h.uncalled rfl
  ahead _ _ h := h.uncalled rfl
  counted _ h := h.uncalled rfl
  causes _ _ h := h.uncalled rfl
  saving _ h := h.uncalled rfl
  saved v s h _ := ZonesFollowConditions.uncalled (s := { s with saving := false, image := if v then some s.settings else none })
    (h.uncalled rfl) (raise_frame _ _).uncalled
  enables _ _ h := h.uncalled rfl
  flags v _ h := h.changeFlags v
  force z _ h := h.forceZone z
  released z _ h := h.releaseZone z
  recalled _ _ _ _ h _ := h.claims (placeScene_frame _ _ _ _ _)
  remote _ _ _ _ _ h _ := h.claims (place_frame _ _ _ _)
  withdrawn _ _ _ _ h := h.claims (withdraw_frame _ _ _ _)
  dropped _ _ _ h := h.claims (withdrawEverywhere_frame _ _ _)
  writeScene _ _ _ h _ _ := h.uncalled rfl
  writeCircuit _ _ _ h _ := h.uncalled rfl
  writeZone z zs _ h _ := h.writeZone z zs
  writeAnnunciator _ _ _ h := h.uncalled rfl
  writeGeneral g _ h _ := h.writeGeneral g
  ladder ch v s h same _ := by
    rw [setLadder_eq_record]
    exact zonesFollowConditions_iff.mpr ⟨h.follow.congr rfl fun z => activeMasked_recordLadder (by simp [faultsFor, same]),
      h.channels.recordLadder (by rw [same])⟩
  ladderKnown ch v s h sampled was _ := h.ladderKnown _ (by simp [sampled, was])
  station a v s h state uncounted := by
    rw [setStation_eq_record]
    exact zonesFollowConditions_iff.mpr
      ⟨h.follow.congr rfl fun z => activeMasked_recordStation (by simp [countsFor, state, uncounted]), h.channels⟩
  stationKnown a v _ h := h.stationKnown a v
  turn _ _ h := h.uncalled rfl
  mains m _ h := h.changeMains m
  crossings _ h _ := h.uncalled rfl
  silence v _ h := h.setSilence v
  freed z s h releasing := by
    have uncalled : called s z ≠ true := fun c => by simpa [releasing] using (h.held z).mpr c
    exact zonesFollowConditions_iff.mpr ⟨fun y => FollowsAt.enter (by simp [uncalled]) fun _ => h.follow y,
      (enterZone_frame _ _ _).channels h.channels⟩
  dwell _ _ h _ := h.uncalled rfl
  tick s h := h.uncalled (by rw [levelTick_frame]; rfl)
  framer _ _ h := h.uncalled rfl
  sent _ h := h.uncalled rfl
  raise _ _ h := h.uncalled (raise_frame _ _).uncalled
  ramps _ _ h := h.uncalled rfl
  run _ b x _ h _ _ := h.runAction b x

theorem zonesKeptByGestures : KeptByGestures ZonesFollowConditions := .ofTracker zonesKeptByActions fun src v s h =>
  h.uncalled (by cases src <;> rfl)

/-! ## The writes -/

/-- A write of an input that leaves its function (R1). -/
theorem ZonesFollowConditions.storeInput {s : State} (h : ZonesFollowConditions s) {i : InputId} {cs : InputSettings}
    (same : cs.function = (s.settings.inputs.get i).function) : ZonesFollowConditions (storeInput i cs s) := by
  refine zonesFollowConditions_iff.mpr ⟨h.follow.congr rfl fun _ => rfl, h.channels.congr (fun _ => Iff.rfl) fun j => ?_⟩
  show ((s.settings.inputs.set i cs).get j).function = _
  rw [Table.get_set]
  split
  · next e => subst e; exact same
  · rfl

theorem channelOf_eq_some {i : InputId} {ch : ChannelId} : channelOf i = some ch ↔ inputOfChannel ch = i := by
  unfold channelOf inputOfChannel
  split
  · next h =>
    simp only [Option.some.injEq, Fin.ext_iff]
    omega
  · next h =>
    simp only [reduceCtorEq, Fin.ext_iff, false_iff]
    omega

/-- What an input's new function asks of the channels: the one read on it follows, and the others are as they were. -/
theorem ChannelsFollowFunctions.storeFunction {s t : State} (h : ChannelsFollowFunctions s) {i : InputId} {cs : InputSettings}
    (inputs : t.settings.inputs = s.settings.inputs.set i cs)
    (here : ∀ ch, inputOfChannel ch = i → ((t.ladders.get ch).state = .inactive ↔ cs.function = .contact))
    (others : ∀ ch, inputOfChannel ch ≠ i → t.ladders.get ch = s.ladders.get ch) : ChannelsFollowFunctions t := fun ch => by
  rw [inputs, Table.get_set]
  split
  · next e => exact here ch e.symm
  · next e => rw [others ch (Ne.symm e)]; exact h ch

theorem ZonesFollowConditions.inputToLadder {s : State} (h : ZonesFollowConditions s) {i : InputId} {cs : InputSettings}
    (old : (s.settings.inputs.get i).function = .contact) (new : cs.function = .ladder) :
    ZonesFollowConditions (inputToLadder i cs s) := by
  have released := zonesKeptByGestures.synthesized (.contact i) s h
  have settings := (synthesizedRelease_frame (.contact i) s).inputSettings
  unfold Machine.inputToLadder
  dsimp only
  generalize synthesizedRelease (.contact i) s = u at released settings
  split
  · next ch e =>
    have channel := channelOf_eq_some.mp e
    have was : (u.ladders.get ch).state = .inactive := (released.channels ch).mpr (by rw [channel, settings, old])
    refine zonesFollowConditions_iff.mpr ⟨?_, released.channels.storeFunction (i := i) (cs := cs) rfl ?_ ?_⟩
    · refine released.follow.congr rfl fun z => ?_
      have stopped := activeMasked_recordLadder (s := u) (ch := ch) (z := z) (cs := u.settings.ladders.get ch)
        (l := LadderState.started)
        ((faultsFor_of_not_fault (by simp [LadderState.started]) _ _).trans (faultsFor_of_not_fault (by simp [was]) _ _).symm)
      rw [← setLadder_eq_record] at stopped
      exact stopped
    · intro c hc
      have : ch = c := by
        have := channelOf_eq_some.mpr hc
        rw [e] at this
        exact Option.some.inj this
      subst this
      simp [new, LadderState.started]
    · intro c hc
      have : ch ≠ c := fun e' => hc (e' ▸ channel)
      simp [Table.get_set_ne _ _ this, Machine.storeInput]
  · next e =>
    refine zonesFollowConditions_iff.mpr ⟨released.follow.congr rfl fun _ => rfl,
      released.channels.storeFunction (i := i) (cs := cs) rfl (fun c hc => ?_) fun _ _ => rfl⟩
    rw [channelOf_eq_some.mpr hc] at e
    cases e

/-- A stopped channel no longer faults, and its home zone is told where it did (R18, R21). -/
theorem AllFollow.stopLadder {s : State} (h : ZonesFollowConditions s) (ch : ChannelId) :
    AllFollow (stopLadder ch s) ∧ (stopLadder ch s).settings.inputs = s.settings.inputs ∧
      (stopLadder ch s).ladders = s.ladders.set ch LadderState.off := by
  have released := forButton_kept zonesKeptByGestures.synthesized ch (s.ladders.get ch).decode s h
  have frame := forButton_frame ch (s.ladders.get ch).decode _ synthesizedRelease_frame s
  have settings := frame.inputSettings
  have ladders := frame.sampler (.inl rfl)
  unfold Machine.stopLadder
  dsimp only
  generalize forButton ch (s.ladders.get ch).decode synthesizedRelease s = u at released settings ladders
  split
  · have zones := ladderMadeKnown_frame ch .inactive (u.setLadder ch LadderState.off)
    have only := (raise_frame (.ladder ch .inactive) (u.setLadder ch LadderState.off)).uncalled
    refine ⟨?_, by rw [zones.settings]; exact settings, ?_⟩
    · unfold ladderMadeKnown
      refine released.follow.toldOne only.zones fun z other => ?_
      rw [only.active, setLadder_eq_record]
      have other : z ≠ (u.settings.ladders.get ch).homeZone := other
      exact activeMasked_recordLadder (by rw [faultsFor_elsewhere other, faultsFor_elsewhere other])
    · unfold OnlyZones at zones
      rw [zones, ← ladders]
      rfl
  · next normal =>
    refine ⟨released.follow.congr rfl fun z => ?_, settings, by rw [← ladders]; rfl⟩
    rw [setLadder_eq_record]
    exact activeMasked_recordLadder (by
      rw [faultsFor_of_not_fault (by simp [LadderState.off]), faultsFor_of_not_fault normal])

theorem ZonesFollowConditions.inputToContact {s : State} (h : ZonesFollowConditions s) {i : InputId} {cs : InputSettings}
    (new : cs.function = .contact) : ZonesFollowConditions (inputToContact i cs s) := by
  unfold Machine.inputToContact
  dsimp only
  split
  · next ch e =>
    obtain ⟨follow, settings, ladders⟩ := AllFollow.stopLadder h ch
    refine zonesFollowConditions_iff.mpr ⟨follow.congr rfl fun _ => rfl, h.channels.storeFunction (i := i) (cs := cs) ?_ ?_ ?_⟩
    · rw [← settings]
      rfl
    · intro c hc
      have : ch = c := Option.some.inj (e.symm.trans (channelOf_eq_some.mpr hc))
      subst this
      simp [Machine.storeInput, ladders, new, LadderState.off]
    · intro c hc
      have : ch ≠ c := fun e' => hc (e' ▸ channelOf_eq_some.mp e)
      simp [Machine.storeInput, ladders, Table.get_set_ne _ _ this]
  · next e =>
    refine zonesFollowConditions_iff.mpr ⟨h.follow.congr rfl fun _ => rfl,
      h.channels.storeFunction (i := i) (cs := cs) rfl (fun c hc => ?_) fun _ _ => rfl⟩
    rw [channelOf_eq_some.mpr hc] at e
    cases e

theorem ZonesFollowConditions.rewriteContact {s : State} (h : ZonesFollowConditions s) {i : InputId}
    {cs : InputSettings} (same : cs.function = (s.settings.inputs.get i).function) :
    ZonesFollowConditions (rewriteContact i (s.settings.inputs.get i) cs s) := by
  have stored : ZonesFollowConditions (Machine.storeInput i cs
      (if retakesGesture (s.settings.inputs.get i) cs then synthesizedRelease (.contact i) s else s)) := by
    split
    · exact (zonesKeptByGestures.synthesized _ _ h).storeInput
        (by rw [(synthesizedRelease_frame (.contact i) s).inputSettings, same])
    · exact h.storeInput same
  unfold Machine.rewriteContact
  dsimp only
  generalize Machine.storeInput i cs
    (if retakesGesture (s.settings.inputs.get i) cs then synthesizedRelease (.contact i) s else s) = u at stored
  have counted : ZonesFollowConditions (if (s.settings.inputs.get i).noise = cs.noise then u
      else u.setInput i (u.inputs.get i).recount) := by
    split
    · exact stored
    · exact stored.uncalled rfl
  have retaken (v : State) (hv : ZonesFollowConditions v) : ZonesFollowConditions (retakeBaseline i cs v) := by
    unfold retakeBaseline
    dsimp only
    split
    · exact zonesKeptByGestures.baseline _ _ hv
    · exact hv
  split
  · exact retaken _ counted
  · exact counted

theorem ZonesFollowConditions.writeInput {s : State} (h : ZonesFollowConditions s) (i : InputId) (cs : InputSettings) :
    ZonesFollowConditions (writeInput i cs s) := by
  unfold Machine.writeInput
  dsimp only
  split
  · next old new => exact h.inputToLadder old new
  · next new => exact h.inputToContact new
  · next old new => exact h.storeInput (by rw [old, new])
  · next old new => exact h.rewriteContact (by rw [old, new])

theorem ZonesFollowConditions.restartLadder {s : State} (h : ZonesFollowConditions s) (ch : ChannelId) (cs : LadderSettings)
    (sampled : (s.ladders.get ch).state ≠ .inactive) : ZonesFollowConditions (restartLadder ch cs s) := by
  have released := forButton_kept zonesKeptByGestures.synthesized ch (s.ladders.get ch).decode s h
  have frame := forButton_frame ch (s.ladders.get ch).decode _ synthesizedRelease_frame s
  have settings := frame.ladderSettings
  have ladders := frame.sampler (.inl rfl)
  unfold Machine.restartLadder
  dsimp only
  generalize forButton ch (s.ladders.get ch).decode synthesizedRelease s = u at released settings ladders
  have channels : ChannelsFollowFunctions (u.recordLadder ch cs LadderState.started) :=
    released.channels.recordLadder (by rw [ladders]; simp [LadderState.started, sampled])
  split
  · have only := (raise_frame (.ladder ch .normal) (u.recordLadder ch cs LadderState.started)).uncalled
    refine released.toldWhere only.zones (fun z apart => (only.active z).trans ?_) (only.channels channels)
    simp only [Bool.or_eq_false_iff, decide_eq_false_iff_not] at apart
    obtain ⟨old, new⟩ := apart
    refine activeMasked_recordLadder ?_
    rw [faultsFor_elsewhere new, settings, faultsFor_elsewhere old]
  · next normal =>
    refine zonesFollowConditions_iff.mpr ⟨released.follow.congr rfl fun z => ?_, channels⟩
    exact activeMasked_recordLadder (by
      rw [faultsFor_of_not_fault (by simp [LadderState.started]), faultsFor_of_not_fault normal])

theorem ZonesFollowConditions.writeLadder {s : State} (h : ZonesFollowConditions s) (ch : ChannelId) (cs : LadderSettings) :
    ZonesFollowConditions (writeLadder ch cs s) := by
  unfold Machine.writeLadder
  split
  · next inactive =>
    rw [storeLadder_eq_record]
    refine zonesFollowConditions_iff.mpr ⟨h.follow.congr rfl fun z => activeMasked_recordLadder ?_,
      h.channels.recordLadder Iff.rfl⟩
    rw [faultsFor_of_not_fault (by simp [inactive]), faultsFor_of_not_fault (by simp [inactive])]
  · next normal => exact h.restartLadder ch cs (by simp [normal])
  · next fault => exact h.restartLadder ch cs (by simp [fault])

/-- A station whose record is replaced counts for no zone but its home zones, old and new (R23, R40). -/
theorem countsFor_of_apart {old cs : StationSettings} {z : ZoneId}
    (apart : (decide (z = old.homeZone) || decide (z = cs.homeZone)) = false) (st st' : StationState) :
    countsFor cs st z = countsFor old st' z := by
  simp only [Bool.or_eq_false_iff, decide_eq_false_iff_not] at apart
  rw [countsFor_elsewhere apart.2, countsFor_elsewhere apart.1]

theorem ZonesFollowConditions.restartStation {s : State} (h : ZonesFollowConditions s) (a : StationId) (cs : StationSettings)
    (concerned : ZoneId → Bool)
    (tells : ∀ z, concerned z = false →
      (decide (z = (s.settings.stations.get a).homeZone) || decide (z = cs.homeZone)) = false) :
    ZonesFollowConditions (restartStation a (storeStation a cs) concerned s) := by
  obtain ⟨released, settings⟩ : ZonesFollowConditions
      (if (s.stations.get a).state = .active then releaseStationBy synthesizedRelease a s else s) ∧
      (if (s.stations.get a).state = .active then releaseStationBy synthesizedRelease a s else s).settings.stations =
        s.settings.stations := by
    split
    · exact releaseStationBy_kept (.synthesized zonesKeptByGestures) a s h
    · exact ⟨h, rfl⟩
  unfold Machine.restartStation restartStationBy
  dsimp only
  generalize (if (s.stations.get a).state = .active then releaseStationBy synthesizedRelease a s else s) = u
    at released settings
  generalize hv : ({ (storeStation a cs u).stations.get a with
    keyMap := 0, baselinePending := false, misses := 0, overrides := Table.replicate 8 none, uncounted := false,
    state := writtenState ((storeStation a cs u).settings.stations.get a) } : StationState) = v
  have only := (enterStation_frame a v (storeStation a cs u)).uncalled
  refine released.toldWhere only.zones (fun z hz => ?_) (only.channels released.channels)
  rw [only.active]
  exact activeMasked_recordStation (countsFor_of_apart (by rw [settings]; exact tells z hz) _ _)

theorem ZonesFollowConditions.writeStation {s : State} (h : ZonesFollowConditions s) (a : StationId) (cs : StationSettings) :
    ZonesFollowConditions (writeStation a cs s) := by
  have restarted := h.restartStation a cs
    (fun z => decide (z = (s.settings.stations.get a).homeZone) || decide (z = cs.homeZone)) fun _ => id
  unfold Machine.writeStation
  dsimp only
  split
  · next t _ =>
    split
    · have only : OnlyUncalled (s.recordStation a cs (writtenInTurn (s.settings.stations.get a) cs (s.stations.get a)))
          { (storeStation a cs s).setStation a (writtenInTurn (s.settings.stations.get a) cs (s.stations.get a)) with
            turn := some { t with deferred := true } } := rfl
      refine h.toldWhere only.zones (fun z hz => ?_) h.channels
      rw [only.active]
      exact activeMasked_recordStation (countsFor_of_apart hz _ _)
    · exact restarted
  · split
    · exact restarted.uncalled rfl
    · exact restarted

/-! ## The starts -/

theorem restartedZoneState_held_iff (zs : ZoneSettings) (c : Bool) (n : ZoneStateName) :
    restartedZoneState zs c n = .held ↔ c = true := by
  cases c <;> cases n <;> simp [restartedZoneState, leaveHeld_ne_held]

/-- A zone that a warm restart has taken up follows its conditions, whatever it was in; the others stay (R156). -/
theorem FollowsAt.restartZone {s : State} {z y : ZoneId} (h : y ≠ z → FollowsAt s y) : FollowsAt (restartZone s z) y := by
  have next := restartedZoneState_held_iff (s.settings.zones.get z) (called s z) (s.zones.get z).state
  unfold Machine.restartZone
  dsimp only
  split
  · next same =>
    by_cases here : y = z
    · subst here
      have calledSame : called (s.setZone y { s.zones.get y with
          timer := releaseTimer (s.settings.zones.get y)
            (restartedZoneState (s.settings.zones.get y) (called s y) (s.zones.get y).state) }) y = called s y :=
        called_congr rfl (by simp)
      refine ⟨?_, ?_⟩
      · rw [calledSame]
        simpa [same] using next
      · rw [State.setZone_zones, Table.get_set_self, releaseTimer_isSome, same]
    · exact (h here).congr (Table.get_set_ne _ _ (Ne.symm here)) rfl
  · exact FollowsAt.enter next h

theorem AllFollow.restartZones (s : State) : AllFollow ((List.finRange 16).foldl restartZone s) := by
  have key : ∀ (l : List ZoneId) (s : State), (∀ y, y ∉ l → FollowsAt s y) → AllFollow (l.foldl restartZone s) := by
    intro l
    induction l with
    | nil => exact fun s h y => h y List.not_mem_nil
    | cons z l ih =>
      refine fun s h => ih _ fun y hy => FollowsAt.restartZone fun other => h y ?_
      simp [other, hy]
  exact key _ s fun y hy => absurd (List.mem_finRange y) hy

theorem ZonesFollowConditions.warmRestart {s : State} (h : ZonesFollowConditions s) : ZonesFollowConditions (warmRestart s) := by
  have follow := AllFollow.restartZones s.restarting
  have channels := (restartZones_frame (List.finRange 16) s.restarting).channels h.channels
  rw [warmRestart_eq]
  generalize (List.finRange 16).foldl restartZone s.restarting = u at follow channels
  exact (zonesFollowConditions_iff.mpr ⟨follow, channels⟩).uncalled rfl

/-- R155: a start evaluates every zone from its conditions. -/
theorem AllFollow.startZones (s : State) (unforced : ∀ z, (s.zones.get z).force = false) : AllFollow (startZones s) := fun z => by
  have same : called (Machine.startZones s) z = called s z := called_congr rfl (by simp [Machine.startZones, unforced])
  refine ⟨?_, ?_⟩
  · rw [same]
    cases c : called s z <;> simp [Machine.startZones, c]
  · cases c : called s z <;> simp [Machine.startZones, c]

theorem startFrom_zonesFollow (c : Settings) (v : Option Settings) (causes : ResetCauses) (d : Nat) (q : List Instr) :
    ZonesFollowConditions (startFrom c v causes d q) := by
  have begun {u : State} (hu : ZonesFollowConditions u) : ZonesFollowConditions (beginTurn (firstServed u) u) := hu.uncalled rfl
  unfold startFrom
  refine begun (zonesFollowConditions_iff.mpr ⟨AllFollow.startZones _ fun z => ?_, fun ch => ?_⟩)
  · simp [State.reset]
  · cases hf : (c.inputs.get (inputOfChannel ch)).function <;>
      simp [startZones, startedLadder, hf, LadderState.started, LadderState.off]

theorem loadAndStart_zonesFollow (causes : ResetCauses) (s : State) : ZonesFollowConditions (loadAndStart causes s) := by
  unfold loadAndStart
  split <;> exact startFrom_zonesFollow _ _ _ _ _

/-- The state after reset, under the defaults with no zone called. -/
theorem reset_zonesFollow : ZonesFollowConditions State.reset := by
  have uncalled (z : ZoneId) : called State.reset z = false := by
    simp [called, activeMasked, State.reset, Settings.defaults, ZoneSettings.defaults]
  refine ⟨fun z => ?_, fun z => ?_, fun ch => ?_⟩
  · rw [uncalled]
    simp [State.reset]
  · simp [State.reset]
  · simp [State.reset, LadderState.off, Settings.defaults, InputSettings.defaults]

theorem zonesKeptByCommands : KeptByCommands ZonesFollowConditions where
  toKeptByGestures := zonesKeptByGestures
  input _ _ _ h := h.uncalled rfl
  passed _ h := h.passTime
  writeInput i cs _ h _ _ := h.writeInput i cs
  writeLadder ch cs _ h _ := h.writeLadder ch cs
  writeStation a cs _ h _ := h.writeStation a cs
  clearBinding _ _ h := h.uncalled rfl
  writeBinding _ _ _ h _ _ := h.uncalled rfl
  restart _ h := h.warmRestart
  powerUp _ _ := loadAndStart_zonesFollow _ _
  resetByLine _ _ := loadAndStart_zonesFollow _ _
  heldInReset _ h := h.uncalled rfl
  unpowered _ _ := reset_zonesFollow.uncalled rfl

/-- Settles O56: every change of what a condition reads is told to the zones that it may call or leave uncalled, and a zone is
entered into HELD by nothing else. -/
theorem stepsKeepZonesUnderTheirConditions : Obligations.StepsKeepZonesUnderTheirConditions := fun s t h e =>
  step_gives zonesKeptByCommands (fun _ _ h => h.uncalled rfl) s h t e

end Sys2Proof.Machine

/-! PROOFS. The machine: the step, the completion of every command, the starts and the stops (R166, R194 to R196). -/

namespace Sys2Proof.Machine

/-! ## Outcomes -/

theorem whenRunning_of_running {f : State → State} {s : State} (h : s.power = .running) :
    whenRunning f s = .next (f s) := if_pos h

theorem whenRunning_of_stopped {f : State → State} {s : State} (h : s.power ≠ .running) : whenRunning f s = .next s := if_neg h

theorem event_whenRunning (f : State → State) (s : State) : ∃ g, event f s = whenRunning g s := ⟨fun s => serve (f s), rfl⟩

/-- A command that neither starts the part nor takes its supply away finds a running part to act on, or none. -/
theorem exec_whenRunning (c : Instr) (h1 : c ≠ .powerOn) (h2 : c ≠ .resetLine) (h3 : c ≠ .lossOfSupply) (s : State) :
    ∃ f, exec c s = whenRunning f s := by
  cases c with
  | powerOn => exact absurd rfl h1
  | resetLine => exact absurd rfl h2
  | lossOfSupply => exact absurd rfl h3
  | contactSample | ladderSample | tick | zeroCrossing | characterReceived => exact event_whenRunning _ s
  | _ => exact ⟨_, rfl⟩

theorem resetLine_next {s : State} (h : s.power ≠ .unpowered) : exec .resetLine s = .next (resetByLine s) := by
  show execResetLine s = _
  unfold execResetLine
  split
  · rfl
  · rfl
  · next off => exact absurd off h

theorem lossOfSupply_next {s : State} (h : s.power ≠ .unpowered) : exec .lossOfSupply s = .next (losePower s) := by
  show execLossOfSupply s = _
  unfold execLossOfSupply
  split
  · rfl
  · rfl
  · next off => exact absurd off h

theorem resetLine_unpowered {s : State} (h : s.power = .unpowered) : exec .resetLine s = .next s := by
  show execResetLine s = _
  unfold execResetLine
  rw [h]

theorem lossOfSupply_unpowered {s : State} (h : s.power = .unpowered) : exec .lossOfSupply s = .next s := by
  show execLossOfSupply s = _
  unfold execLossOfSupply
  rw [h]

/-- No command faults or is refused. -/
theorem exec_completes (c : Instr) (s : State) : ∃ t, exec c s = .next t := by
  by_cases h1 : c = .powerOn
  · subst h1
    exact ⟨_, powerOn_next s⟩
  by_cases h2 : c = .resetLine
  · subst h2
    by_cases off : s.power = .unpowered
    · exact ⟨_, resetLine_unpowered off⟩
    · exact ⟨_, resetLine_next off⟩
  by_cases h3 : c = .lossOfSupply
  · subst h3
    by_cases off : s.power = .unpowered
    · exact ⟨_, lossOfSupply_unpowered off⟩
    · exact ⟨_, lossOfSupply_next off⟩
  obtain ⟨f, e⟩ := exec_whenRunning c h1 h2 h3 s
  rw [e]
  by_cases running : s.power = .running
  · exact ⟨_, whenRunning_of_running running⟩
  · exact ⟨_, whenRunning_of_stopped running⟩

/-! ## The waiting commands -/

theorem OnlyZones.pending {s t : State} (h : OnlyZones s t) : t.pending = s.pending := by
  unfold OnlyZones at h
  rw [h]

theorem OnlyClaims.pending {s t : State} (h : OnlyClaims s t) : t.pending = s.pending := by
  unfold OnlyClaims at h
  rw [h]

theorem pendingKeptByWrites (q : List Instr) : KeptByWrites fun s => s.pending = q where
  quiet h only := by
    unfold OnlyQuiet at only
    rw [only]
    exact h
  raise _ _ h := (raise_pending _ _).trans h
  unreport _ h := h
  counted _ h := h
  enqueue _ _ h := by
    unfold enqueue
    split <;> exact h
  unqueue _ h := h
  image _ _ h _ := h
  enter _ _ _ h _ := (enterZone_frame _ _ _).pending.trans h
  forced _ _ _ h := h
  ramps _ _ h := h
  requestRamp _ _ h _ _ := by
    rw [requestRamp_frame]
    exact h
  ladder _ _ _ h _ := h
  place _ _ _ _ h _ _ := (place_frame _ _ _ _).pending.trans h
  lose _ _ h _ := h
  mains _ _ h := h
  crossings _ h := h
  dwell _ _ h _ := h
  tick _ h := by
    rw [levelTick_frame]
    exact h
  writeScene _ _ _ h _ _ := h
  writeCircuit _ _ _ h _ := h
  storeZone _ _ _ h _ := h
  writeAnnunciator _ _ _ h := h
  storeGeneral _ _ h _ := h
  passed _ h := h
  storeInput _ _ _ h _ _ := h
  storeLadder _ _ _ h _ := h
  storeStation _ _ _ h _ := h
  storeBinding _ _ _ h _ _ := h
  restart s h := by
    have restarted := (restartZones_frame (List.finRange 16) s.restarting).pending
    rw [warmRestart_eq]
    generalize (List.finRange 16).foldl restartZone s.restarting = u at restarted
    exact restarted.trans h
  started causes s h := by
    unfold loadAndStart
    split <;> exact h
  unpowered _ h := h

theorem exec_pending {c : Instr} {s t : State} (e : exec c s = .next t) : t.pending = s.pending :=
  have K := pendingKeptByWrites s.pending
  exec_gives (K.commands (.ofTracker K.actions fun _ _ _ h => (State.setTracker_pending ..).trans h)) c s rfl t e

/-! ## The start values -/

/-- A circuit at start heads for its rest level with its default fade (R115, R135). -/
theorem startedCircuit_level (cs : CircuitSettings) :
    (startedCircuit cs).level = (if cs.defaultFade = 0 then cs.rest else 0) ∧
    (startedCircuit cs).fade = (if cs.defaultFade = 0 ∨ cs.rest = 0 then none
      else some { start := 0, target := cs.rest, steps := 5 * cs.defaultFade, count := 0 }) := by
  have unfolded : startedCircuit cs = Circuit.started.headFor cs.rest cs.defaultFade := rfl
  rw [unfolded]
  by_cases rest : cs.rest = 0
  · rw [Circuit.headFor_of_aim (by simpa [Circuit.aim, Circuit.started] using rest)]
    simp [Circuit.started, rest]
  · have away : cs.rest ≠ Circuit.started.aim := by simpa [Circuit.aim, Circuit.started] using rest
    have apart : cs.rest ≠ Circuit.started.level := by simpa [Circuit.started] using rest
    by_cases fade : cs.defaultFade = 0
    · rw [Circuit.headFor_of_no_fade away apart fade]
      simp [fade]
    · rw [Circuit.headFor_of_fade away apart fade]
      simp [Circuit.started, fade, rest]

theorem silenceStart_eq (n : Nat) : silenceStart n = if n = 0 then .stopped else .running (n * 1000) := rfl

/-- Every block starts at the values of its chapter, whatever configuration is loaded (R195). -/
theorem startFrom_fresh (c : Settings) (v : Option Settings) (causes : ResetCauses) (d : Nat) (q : List Instr) :
    FreshStart c (startFrom c v causes d q) where
  running := rfl
  settings := rfl
  idleStore := rfl
  inputs i := by
    cases h : (c.inputs.get i).function <;> simp [startFrom, beginTurn, startZones, startedInput, h]
  ladders ch := by
    cases h : (c.inputs.get (inputOfChannel ch)).function <;> simp [startFrom, beginTurn, startZones, startedLadder, h]
  stations a := by simp [startFrom, beginTurn, startZones, writtenState]
  turn := rfl
  trackers := startFrom_tracker c v causes d q
  lists n := by simp [startFrom, beginTurn, startZones]
  outputs n := by simp [startFrom, beginTurn, startZones, startedCircuit, Circuit.retarget, Circuit.started]
  requests n := by simp [startFrom, beginTurn, startZones, startedCircuit, Circuit.started]
  relays n := by simp [startFrom, beginTurn, startZones, startedCircuit, Circuit.started, Relay.started]
  levels n := by simpa [startFrom, beginTurn, startZones] using (startedCircuit_level (c.circuits.get n)).1
  fades n := by simpa [startFrom, beginTurn, startZones] using (startedCircuit_level (c.circuits.get n)).2
  ramps := rfl
  line := ⟨rfl, rfl⟩
  mains := rfl
  zones z := by
    unfold startFrom
    dsimp only
    generalize hu : ({ State.reset with
      settings := c, image := v, causes := causes, inputs := c.inputs.map startedInput
      ladders := Table.ofFn (startedLadder c.inputs)
      stations := c.stations.map fun cs => StationState.started (writtenState cs)
      circuits := c.circuits.map startedCircuit, flags := c.general.flagStart, enables := c.general.enableStart
      silence := silenceStart c.general.silenceTimeout, draws := d, pending := q } : State) = u
    have unforced : (u.zones.get z).force = false := by simp [← hu, State.reset]
    have same : called (beginTurn (firstServed (startZones u)) (startZones u)) z = called u z :=
      called_congr (t := startZones u) rfl (by simp [startZones, unforced])
    rw [same]
    simp [beginTurn, startZones]
  flags := rfl
  enables := rfl
  link := ⟨rfl, rfl, rfl, rfl, rfl, rfl⟩
  reports := ⟨rfl, rfl⟩
  silence := rfl

theorem loadAndStart_fresh (causes : ResetCauses) (s : State) :
    FreshStart (s.image.getD Settings.defaults) (loadAndStart causes s) ∧ (loadAndStart causes s).image = s.image ∧
      (loadAndStart causes s).causes = { causes with storeEmpty := causes.storeEmpty || s.image.isNone } := by
  unfold loadAndStart
  cases s.image with
  | some c => exact ⟨startFrom_fresh _ _ _ _ _, rfl, by simp [startFrom, beginTurn, startZones]⟩
  | none => exact ⟨startFrom_fresh _ _ _ _ _, rfl, by simp [startFrom, beginTurn, startZones]⟩

/-- No zone is called under the defaults: none masks a condition. -/
theorem reset_uncalled (z : ZoneId) : called State.reset z = false := by
  simp [called, activeMasked, State.reset, Settings.defaults, ZoneSettings.defaults]

/-- No station is served under the defaults: none is enabled. -/
theorem reset_firstServed : firstServed State.reset = none := by
  simp [firstServed, served, State.reset, Settings.defaults, StationSettings.defaults]

theorem reset_fresh : FreshStart Settings.defaults State.reset where
  running := rfl
  settings := rfl
  idleStore := rfl
  inputs i := by simp [State.reset, Settings.defaults, InputSettings.defaults]
  ladders ch := by simp [State.reset, Settings.defaults, InputSettings.defaults]
  stations a := by simp [State.reset, Settings.defaults, StationSettings.defaults]
  turn := by
    rw [reset_firstServed]
    rfl
  trackers src := by cases src <;> simp [State.reset, State.tracker]
  lists n := by simp [State.reset, Circuit.started]
  outputs n := by simp [State.reset, Circuit.started]
  requests n := by simp [State.reset, Circuit.started]
  relays n := by simp [State.reset, Circuit.started, Relay.started]
  levels n := by simp [State.reset, Circuit.started, Settings.defaults, CircuitSettings.defaults]
  fades n := by simp [State.reset, Circuit.started, Settings.defaults, CircuitSettings.defaults]
  ramps := rfl
  line := ⟨rfl, rfl⟩
  mains := rfl
  zones z := by
    rw [reset_uncalled]
    simp [State.reset]
  flags := rfl
  enables := rfl
  link := ⟨rfl, rfl, rfl, rfl, rfl, rfl⟩
  reports := ⟨rfl, rfl⟩
  silence := rfl

/-! ## The statements -/

/-- Settles O1: the two branches of the step. -/
theorem stepRunsFrontCommand : Obligations.StepRunsFrontCommand := fun c rest s =>
  ⟨fun h => by unfold step; rw [h], fun h => by unfold step; rw [h]⟩

/-- Settles O2: no command has another outcome than a next state, and none of its pieces reads or writes the queue. -/
theorem everyCommandCompletes : Obligations.EveryCommandCompletes := fun c s =>
  have ⟨t, e⟩ := exec_completes c s
  ⟨t, e, exec_pending e⟩

/-- Settles O3: the value of each block. -/
theorem resetHoldsTheStartValues : Obligations.ResetHoldsTheStartValues :=
  ⟨reset_fresh, rfl, rfl, rfl, fun z => by simp [State.reset], fun n => by simp [State.reset, Circuit.started]⟩

/-- Settles O4: both starts load and start alike, from the reset-cause record that each leaves. -/
theorem startsGiveEveryBlockItsStartValues : Obligations.StartsGiveEveryBlockItsStartValues := fun s => by
  refine ⟨⟨_, powerOn_next s, ?_⟩, fun powered => ⟨_, resetLine_next powered, loadAndStart_fresh _ s⟩⟩
  obtain ⟨fresh, image, causes⟩ := loadAndStart_fresh { ResetCauses.clear with powerOn := true } s
  exact ⟨fresh, image, causes.trans (by simp [ResetCauses.clear])⟩

/-- Settles O5: the three stopping commands as they stand, and every other command but a start finds a stopped part. -/
theorem stoppedPartTakesNoCommand : Obligations.StoppedPartTakesNoCommand := fun s => by
  refine ⟨fun running => whenRunning_of_running running,
    fun powered => ⟨_, lossOfSupply_next powered, rfl, rfl, rfl, rfl, rfl, rfl⟩, fun c stopped h1 h2 h3 => ?_,
    fun off => ⟨resetLine_unpowered off, lossOfSupply_unpowered off⟩⟩
  obtain ⟨f, e⟩ := exec_whenRunning c h1 h2 h3 s
  rw [e, whenRunning_of_stopped stopped]

/-! ## The invariants at reset -/

/-- Settles O60: what a part that loses its supply shows meets each invariant, and so does the state after reset. -/
theorem resetMeetsEveryInvariant : Obligations.ResetMeetsEveryInvariant := by
  have ramps : RampsInOrder State.reset := .empty rfl
  refine ⟨claimsInOrder_iff.mpr fun c => .empty (by simp [State.reset, Circuit.started]),
    ⟨⟨Settings.defaults_inRange, fun c h => by cases h⟩, fun c => ?_⟩, ramps.table, ramps.zones,
    relaysInOrder_iff.mpr fun c => ⟨.idle (by simp [State.reset, Circuit.started, Relay.started]),
      fun _ => by simp [State.reset, Circuit.started]⟩,
    reset_zonesFollow, ⟨Settings.defaults_egressLaw, fun c h => by cases h⟩,
    fun src => by rw [reset_fresh.trackers]; rfl,
    ⟨Nat.zero_le _, Nat.zero_le _, Nat.zero_le _, fun ch => by simp [State.reset, LadderState.off]⟩⟩
  refine ⟨?_, ?_, ?_, fun _ => ?_, ?_⟩ <;>
    simp [State.reset, Circuit.started, Circuit.target, Settings.defaults, CircuitSettings.defaults]

end Sys2Proof.Machine

/-! PROOFS. The contact inputs and the arrivals at a tracker (R2 to R9, R44 to R50). -/

namespace Sys2Proof.Machine

/-! ## Events -/

theorem event_of_running {f : State → State} {s : State} (h : s.power = .running) : event f s = .next (serve (f s)) :=
  whenRunning_of_running h

theorem eventIf_of_possible {p : State → Bool} {f : State → State} {s : State} (h : s.power = .running) (hp : p s = true) :
    eventIf p f s = .next (serve (f s)) := by
  unfold eventIf
  rw [whenRunning_of_running h, if_pos hp]

/-! ## What an arrival makes of a tracker -/

theorem pressedTracker_eq (s : State) (src : Source) : pressedTracker s src =
    { state := .down, kind := some (kindOf s src),
      timer := if kindOf s src = .momentary then some (holdTimeOf s src * 100) else none,
      holdTime := some (holdTimeOf s src), suppression := heldZones s } := by
  unfold pressedTracker
  cases kindOf s src <;> rfl

theorem press_of_rest {src : Source} {s : State} (h : (s.tracker src).state = .idle ∨ (s.tracker src).state = .latent) :
    press src s = dispatch src .press (heldZones s) (s.setTracker src (pressedTracker s src)) := by
  unfold press
  rcases h with h | h <;> rw [h] <;> rfl

theorem release_of_idle {src : Source} {s : State} (h : (s.tracker src).state = .idle) : release src s = s := by
  unfold release
  rw [h]

theorem release_of_gesture {src : Source} {s : State} (h : (s.tracker src).state ≠ .idle) :
    release src s = endGesture src (releaseTriggers (s.tracker src)) s := by
  unfold release
  split
  · next e => exact absurd e h
  all_goals rfl

theorem synthesizedRelease_of_idle {src : Source} {s : State} (h : (s.tracker src).state = .idle) :
    synthesizedRelease src s = s := synthesizedRelease_atRest src s h

theorem synthesizedRelease_of_gesture {src : Source} {s : State} (h : (s.tracker src).state ≠ .idle) :
    synthesizedRelease src s = endGesture src (synthesizedTriggers (s.tracker src)) s := by
  unfold synthesizedRelease
  split
  · next e => exact absurd e h
  all_goals rfl

/-! ## One sample of a contact input -/

variable {i : InputId} {raw : Contact} {s : State}

theorem sampleContact_ladder (h : (s.settings.inputs.get i).function = .ladder) : sampleContact i raw s = s := by
  unfold sampleContact
  simp only [h]

theorem sampleContact_running (h : (s.settings.inputs.get i).function = .contact)
    (hc : (s.inputs.get i).conditioning = .running) : sampleContact i raw s =
      if raw = (s.inputs.get i).filtered then s.setInput i { s.inputs.get i with pending := none }
      else if (s.settings.inputs.get i).noise.samples ≤ (s.inputs.get i).pending.getD 0 + 1 then acceptChange i raw s
      else s.setInput i { s.inputs.get i with pending := some ((s.inputs.get i).pending.getD 0 + 1) } := by
  unfold sampleContact acceptsAt pendingCount
  simp only [h, hc]
  split
  · rfl
  · next differs => simp [differs]

theorem sampleContact_settling {run : Option (Contact × Nat)} {a : Bool}
    (h : (s.settings.inputs.get i).function = .contact) (hc : (s.inputs.get i).conditioning = .settling run a) :
    sampleContact i raw s =
      if (s.settings.inputs.get i).noise.samples ≤ settlingCount run raw then settle i raw a s
      else s.setInput i { s.inputs.get i with conditioning := .settling (some (raw, settlingCount run raw)) a } := by
  unfold sampleContact settlesAt
  simp only [h, hc, decide_eq_true_eq]

/-- The sample at which a pending change is accepted, as the event and as the sample itself (R2). -/
theorem acceptedChange_next (hp : s.power = .running) (h : (s.settings.inputs.get i).function = .contact)
    (hc : (s.inputs.get i).conditioning = .running) (differs : raw ≠ (s.inputs.get i).filtered)
    (full : (s.settings.inputs.get i).noise.samples ≤ (s.inputs.get i).pending.getD 0 + 1) :
    exec (.changeAccepted i raw) s = .next (serve (acceptChange i raw s)) ∧
      exec (.contactSample i raw) s = .next (serve (acceptChange i raw s)) := by
  have sample : sampleContact i raw s = acceptChange i raw s := by
    rw [sampleContact_running h hc, if_neg differs, if_pos full]
  have accepts : acceptsAt i raw s = true := by simp [acceptsAt, h, hc, differs, pendingCount, full]
  rw [← sample]
  exact ⟨eventIf_of_possible hp accepts, event_of_running hp⟩

theorem settlingComplete_next {run : Option (Contact × Nat)} {a : Bool} (hp : s.power = .running)
    (h : (s.settings.inputs.get i).function = .contact) (hc : (s.inputs.get i).conditioning = .settling run a)
    (full : (s.settings.inputs.get i).noise.samples ≤ settlingCount run raw) :
    exec (.settlingComplete i raw) s = .next (serve (settle i raw a s)) ∧
      exec (.contactSample i raw) s = .next (serve (settle i raw a s)) := by
  have sample : sampleContact i raw s = settle i raw a s := by rw [sampleContact_settling h hc, if_pos full]
  have settles : settlesAt i raw s = true := by simp [settlesAt, h, hc, full]
  rw [← sample]
  exact ⟨eventIf_of_possible hp settles, event_of_running hp⟩

/-- The part with a change accepted on an input (R2). -/
def State.accepted (i : InputId) (raw : Contact) (s : State) : State :=
  s.setInput i { s.inputs.get i with filtered := raw, pending := none }

/-- The part with an input settled (R6). -/
def State.settled (i : InputId) (raw : Contact) (s : State) : State :=
  s.setInput i { filtered := raw, pending := none, conditioning := .running }

theorem acceptChange_of_apart (off : (s.settings.inputs.get i).participate = false) : acceptChange i raw s = s.accepted i raw := by
  unfold acceptChange
  dsimp only
  rw [if_neg (by simpa using off)]
  rfl

theorem acceptChange_of_press (on : (s.settings.inputs.get i).participate = true)
    (level : raw = (s.settings.inputs.get i).sense.pressLevel) :
    acceptChange i raw s = press (.contact i) (s.accepted i raw) := by
  unfold acceptChange
  dsimp only
  rw [if_pos on, if_pos level]
  rfl

theorem acceptChange_of_release (on : (s.settings.inputs.get i).participate = true)
    (level : raw ≠ (s.settings.inputs.get i).sense.pressLevel) :
    acceptChange i raw s = release (.contact i) (s.accepted i raw) := by
  unfold acceptChange
  dsimp only
  rw [if_pos on, if_neg level]
  rfl

theorem settle_of_other {a : Bool} (h : (s.settings.inputs.get i).participate = false ∨
    raw ≠ (s.settings.inputs.get i).sense.pressLevel) : settle i raw a s = s.settled i raw := by
  unfold settle handSettled
  dsimp only
  rw [if_neg (by rcases h with h | h <;> simp [h])]
  rfl

theorem settle_of_press {a : Bool} (on : (s.settings.inputs.get i).participate = true)
    (level : raw = (s.settings.inputs.get i).sense.pressLevel) :
    settle i raw a s = if a then press (.contact i) (s.settled i raw) else baseline (.contact i) (s.settled i raw) := by
  unfold settle handSettled
  dsimp only
  rw [if_pos (by simp [on, level])]
  rfl

theorem baseline_fields (src : Source) (s : State) : (baseline src s).inputs = s.inputs ∧ (baseline src s).ladders = s.ladders ∧
    (baseline src s).circuits = s.circuits ∧ (baseline src s).zones = s.zones ∧ (baseline src s).settings = s.settings := by
  unfold baseline
  split <;> simp

/-- A gesture that starts on an input just sampled records what the input's settings and the zones are (R45). -/
theorem pressedTracker_setInput (v : InputState) : pressedTracker (s.setInput i v) (.contact i) =
    { state := .down, kind := some (s.settings.inputs.get i).kind,
      timer := if (s.settings.inputs.get i).kind = .momentary then some ((s.settings.inputs.get i).holdTime * 100) else none,
      holdTime := some (s.settings.inputs.get i).holdTime, suppression := heldZones s } := pressedTracker_eq _ _

/-- A change accepted reaches the record of the input, and the tracker of that input alone (R3). -/
theorem acceptChange_reaches (i : InputId) (raw : Contact) (s : State) :
    (acceptChange i raw s).inputs = s.inputs.set i { s.inputs.get i with filtered := raw, pending := none } ∧
      ∀ src, src ≠ .contact i → (acceptChange i raw s).tracker src = s.tracker src := by
  cases on : (s.settings.inputs.get i).participate with
  | false =>
    rw [acceptChange_of_apart on]
    exact ⟨rfl, fun _ _ => rfl⟩
  | true =>
    by_cases level : raw = (s.settings.inputs.get i).sense.pressLevel
    · rw [acceptChange_of_press on level]
      exact ⟨(press_frame _ _).inputs, fun src other => press_other _ other⟩
    · rw [acceptChange_of_release on level]
      exact ⟨(release_frame _ _).inputs, fun src other => release_other _ other⟩

/-- A settling run that completes reaches the record of the input, and the tracker of that input alone (R6). -/
theorem settle_reaches (i : InputId) (raw : Contact) (a : Bool) (s : State) :
    (settle i raw a s).inputs = s.inputs.set i { filtered := raw, pending := none, conditioning := .running } ∧
      ∀ src, src ≠ .contact i → (settle i raw a s).tracker src = s.tracker src := by
  by_cases h : (s.settings.inputs.get i).participate = true ∧ raw = (s.settings.inputs.get i).sense.pressLevel
  · rw [settle_of_press h.1 h.2]
    split
    · exact ⟨(press_frame _ _).inputs, fun src other => press_other _ other⟩
    · exact ⟨(baseline_fields _ _).1, fun src other => baseline_other _ other⟩
  · rw [settle_of_other (by simpa [imp_iff_not_or] using h)]
    exact ⟨rfl, fun _ _ => rfl⟩

/-! ## The statements -/

/-- Settles O7: the equations of a sample that is accepted and of each arrival, by the tracker's state. -/
theorem acceptedChangeReachesTheTracker : Obligations.AcceptedChangeReachesTheTracker := by
  refine ⟨?_, ?_⟩
  · intro i raw s cs st old running contact filtering differs full changed
    obtain ⟨accepted, sampled⟩ := acceptedChange_next running contact filtering differs full
    obtain ⟨inputs, others⟩ := acceptChange_reaches i raw s
    refine ⟨_, accepted, sampled, fun off => congrArg serve (acceptChange_of_apart off),
      fun on level => congrArg serve (acceptChange_of_press on level),
      fun on level => congrArg serve (acceptChange_of_release on level), (serve_inputs _).trans inputs, fun off => ?_,
      fun on level rest => ?_, fun on level held => ?_, fun on level => ?_, fun src other => ?_⟩
    · rw [serve_tracker, acceptChange_of_apart off]
      rfl
    · rw [serve_tracker, acceptChange_of_press on level, press_starts (.contact i) (s.accepted i raw) rest]
      exact pressedTracker_setInput _
    · rw [serve_tracker, acceptChange_of_press on level, press_ignored (.contact i) (s.accepted i raw) held]
      rfl
    · rw [serve_tracker, acceptChange_of_release on level]
      exact release_idle _ _
    · rw [serve_tracker]
      exact others src (by simpa using other)
  · intro src s old kind hold ends
    have pressed : ({
        state := .down, kind := some kind, timer := if kind = .momentary then some (hold * 100) else none,
        holdTime := some hold, suppression := heldZones s } : Tracker) = pressedTracker s src := by
      rw [pressedTracker_eq]
      cases src <;> rfl
    have ended (l : List Trigger) : ends l = endGesture src l s := rfl
    simp only [pressed, ended]
    split
    · next h => 
      have h : (s.tracker src).state = .idle := h
      simp only [old, h, reduceCtorEq, if_false]
      exact ⟨press_of_rest (.inl h), release_of_idle h, synthesizedRelease_of_idle h, baseline_latent _ _ h⟩
    · next h =>
      have h : (s.tracker src).state = .latent := h
      have gesture : (s.tracker src).state ≠ .idle := by simp [h]
      simp only [old, h, if_true]
      refine ⟨press_of_rest (.inr h), (release_of_gesture gesture).trans ?_, (synthesizedRelease_of_gesture gesture).trans ?_,
        baseline_ignored _ _ gesture⟩ <;> simp [releaseTriggers, synthesizedTriggers, h]
    · next h =>
      have h : (s.tracker src).state = .down := h
      have gesture : (s.tracker src).state ≠ .idle := by simp [h]
      refine ⟨press_ignored _ _ (.inl h), fun k => (release_of_gesture gesture).trans ?_,
        fun k => (release_of_gesture gesture).trans ?_, (synthesizedRelease_of_gesture gesture).trans ?_,
        baseline_ignored _ _ gesture⟩
      · simp [releaseTriggers, h, show (s.tracker src).kind = _ from k]
      · simp [releaseTriggers, h, show (s.tracker src).kind = _ from k]
      · simp [synthesizedTriggers, h]
    · next h =>
      have h : (s.tracker src).state = .held := h
      have gesture : (s.tracker src).state ≠ .idle := by simp [h]
      refine ⟨press_ignored _ _ (.inr h), (release_of_gesture gesture).trans ?_,
        (synthesizedRelease_of_gesture gesture).trans ?_, baseline_ignored _ _ gesture⟩ <;>
        simp [releaseTriggers, synthesizedTriggers, h]

/-- Settles O8: the one equation of a completed settling run, by R6's table. -/
theorem settlingCompletesAsTheTableGives : Obligations.SettlingCompletesAsTheTableGives := by
  intro i raw run asserts s cs old running contact conditioning full
  have full : cs.noise.samples ≤ settlingCount run raw := by cases run <;> exact full
  obtain ⟨completed, sampled⟩ := settlingComplete_next (raw := raw) running contact conditioning full
  obtain ⟨inputs, others⟩ := settle_reaches i raw asserts s
  have pressed (on : cs.participate = true) (level : raw = cs.sense.pressLevel) (a : asserts = true) :
      settle i raw asserts s = press (.contact i) (s.settled i raw) := by rw [settle_of_press on level, if_pos a]
  have taken (on : cs.participate = true) (level : raw = cs.sense.pressLevel) (a : asserts = false) :
      settle i raw asserts s = baseline (.contact i) (s.settled i raw) := by
    rw [settle_of_press on level, if_neg (by simp [a])]
  refine ⟨_, completed, sampled, (serve_inputs _).trans inputs,
    ⟨fun h => congrArg serve (settle_of_other h), fun on level a => congrArg serve (taken on level a),
      fun on level a => congrArg serve (pressed on level a)⟩,
    fun on level a => ?_, fun on level a held => ?_, fun on level a rest => ?_, fun src other => ?_⟩
  · obtain ⟨-, -, circuits, zones, -⟩ := baseline_fields (.contact i) (s.settled i raw)
    refine ⟨fun idle => ?_, fun busy => ?_, ?_, ?_⟩
    · rw [serve_tracker, taken on level a, baseline_latent (.contact i) (s.settled i raw) idle, State.tracker_setTracker_self]
    · rw [serve_tracker, taken on level a, baseline_ignored (.contact i) (s.settled i raw) busy]
      rfl
    · rw [serve_circuits, taken on level a, circuits]
      rfl
    · rw [serve_zones, taken on level a, zones]
      rfl
  · rw [serve_tracker, pressed on level a, press_ignored (.contact i) (s.settled i raw) held]
    rfl
  · rw [serve_tracker, pressed on level a, press_starts (.contact i) (s.settled i raw) rest]
    exact pressedTracker_setInput _
  · rw [serve_tracker]
    exact others src (by simpa using other)

end Sys2Proof.Machine

/-! PROOFS. The ladder channels: samples, decodes, fault and recovery (R10 to R18). -/

namespace Sys2Proof.Machine

variable {ch : ChannelId} {s : State}

/-! ## The button of a decode -/

theorem forButton_of_button {f : Source → State → State} {n : Nat} {b : LadderButton} (h : n = b.val + 1) :
    forButton ch n f s = f (.ladder ch b) s := by
  have button : ladderSource ch n = some (.ladder ch b) := by
    unfold ladderSource
    rw [dif_pos (by omega)]
    simp [h]
  unfold forButton
  rw [button]

theorem forButton_of_none {f : Source → State → State} {n : Nat} (h : ∀ b : LadderButton, n ≠ b.val + 1) :
    forButton ch n f s = s := by
  have none : ladderSource ch n = .none := by
    unfold ladderSource
    rw [dif_neg]
    rintro ⟨low, high⟩
    exact h ⟨n - 1, by omega⟩ (by simp; omega)
  unfold forButton
  rw [none]

/-- An arrival for a channel's button reaches no other tracker. -/
theorem forButton_other {f : Source → State → State} (others : ∀ src u other, other ≠ src → (f src u).tracker other = u.tracker other)
    {n : Nat} {src : Source} (h : ∀ b : LadderButton, src = .ladder ch b → n ≠ b.val + 1) :
    (forButton ch n f s).tracker src = s.tracker src := by
  by_cases hb : ∃ b : LadderButton, n = b.val + 1
  · obtain ⟨b, e⟩ := hb
    rw [forButton_of_button e]
    exact others _ _ _ fun e' => h b e' e
  · rw [forButton_of_none fun b e => hb ⟨b, e⟩]

theorem forButton_ladders {f : Source → State → State} (ladders : ∀ b u, (f (.ladder ch b) u).ladders = u.ladders) (n : Nat) :
    (forButton ch n f s).ladders = s.ladders := by
  by_cases hb : ∃ b : LadderButton, n = b.val + 1
  · obtain ⟨b, e⟩ := hb
    rw [forButton_of_button e, ladders]
  · rw [forButton_of_none fun b e => hb ⟨b, e⟩]

theorem press_ladders (b : LadderButton) (s : State) : (press (.ladder ch b) s).ladders = s.ladders :=
  (press_frame (.ladder ch b) s).sampler (.inl rfl)

theorem release_ladders (b : LadderButton) (s : State) : (release (.ladder ch b) s).ladders = s.ladders :=
  (release_frame (.ladder ch b) s).sampler (.inl rfl)

theorem synthesizedRelease_ladders (b : LadderButton) (s : State) :
    (synthesizedRelease (.ladder ch b) s).ladders = s.ladders := (synthesizedRelease_frame (.ladder ch b) s).sampler (.inl rfl)

/-! ## One sample of a channel -/

variable {reading w : Nat}

/-- A NORMAL channel's record after a sample in window `w`, its decode as it was (R12). -/
def LadderState.counted (l : LadderState) (w : Nat) : LadderState :=
  { l with candidate := some w, candidateRun := if l.candidate = some w then l.candidateRun + 1 else 1, indeterminateRun := 0 }

theorem sampleLadder_of_window (normal : (s.ladders.get ch).state = .normal)
    (inside : windowOf (s.settings.ladders.get ch) reading = some w) : sampleLadder ch reading s = windowSample ch w s := by
  unfold sampleLadder
  rw [normal, inside]

theorem sampleLadder_of_indeterminate (normal : (s.ladders.get ch).state = .normal)
    (outside : windowOf (s.settings.ladders.get ch) reading = none) :
    sampleLadder ch reading s = if 100 ≤ (s.ladders.get ch).indeterminateRun + 1 then enterFault ch s
      else s.setLadder ch { s.ladders.get ch with
        candidate := none, candidateRun := 0, indeterminateRun := (s.ladders.get ch).indeterminateRun + 1 } := by
  unfold sampleLadder
  rw [normal, outside]
  rfl

theorem sampleLadder_of_fault (fault : (s.ladders.get ch).state = .fault) :
    sampleLadder ch reading s = faultSample ch reading s := by
  unfold sampleLadder
  rw [fault]

/-- Whether the run of window `w` reaches the stability count with one sample more (R12). -/
theorem reachesStability_iff : reachesStability ch w s = true ↔ (s.settings.ladders.get ch).stability ≤
    (if (s.ladders.get ch).candidate = some w then (s.ladders.get ch).candidateRun + 1 else 1) := decide_eq_true_iff

theorem windowSample_of_counting (h : (if (s.ladders.get ch).candidate = some w then (s.ladders.get ch).candidateRun + 1 else 1) <
      (s.settings.ladders.get ch).stability ∨
    ((s.ladders.get ch).baselinePending = false ∧ w = (s.ladders.get ch).decode)) :
    windowSample ch w s = s.setLadder ch ((s.ladders.get ch).counted w) := by
  unfold windowSample
  dsimp only
  split
  · next reached =>
    rw [reachesStability_iff] at reached
    obtain ⟨settled, same⟩ := h.resolve_left (by omega)
    rw [if_neg (by simp [settled]), if_pos same]
    rfl
  · rfl

theorem windowSample_of_baseline (reached : reachesStability ch w s = true)
    (pending : (s.ladders.get ch).baselinePending = true) : windowSample ch w s =
      forButton ch w baseline (s.setLadder ch { (s.ladders.get ch).counted w with decode := w, baselinePending := false }) := by
  unfold windowSample
  dsimp only
  rw [if_pos reached, if_pos pending]
  rfl

theorem windowSample_of_change (reached : reachesStability ch w s = true)
    (settled : (s.ladders.get ch).baselinePending = false) (new : w ≠ (s.ladders.get ch).decode) : windowSample ch w s =
      forButton ch w press (forButton ch (s.ladders.get ch).decode release
        (s.setLadder ch { (s.ladders.get ch).counted w with decode := w })) := by
  unfold windowSample
  dsimp only
  rw [if_pos reached, if_neg (by simp [settled]), if_neg new]
  rfl

theorem decodeChangesAt_of_change (normal : (s.ladders.get ch).state = .normal)
    (inside : windowOf (s.settings.ladders.get ch) reading = some w) (reached : reachesStability ch w s = true)
    (settled : (s.ladders.get ch).baselinePending = false) (new : w ≠ (s.ladders.get ch).decode) :
    decodeChangesAt ch reading s = true := by
  unfold decodeChangesAt
  dsimp only
  rw [normal, inside]
  simp [reached, settled, new]

theorem takesBaselineAt_of_pending (normal : (s.ladders.get ch).state = .normal)
    (inside : windowOf (s.settings.ladders.get ch) reading = some w) (reached : reachesStability ch w s = true)
    (pending : (s.ladders.get ch).baselinePending = true) : takesBaselineAt ch reading s = true := by
  unfold takesBaselineAt
  dsimp only
  rw [normal, inside]
  simp [reached, pending]

theorem entersFaultAt_of_full (normal : (s.ladders.get ch).state = .normal)
    (outside : windowOf (s.settings.ladders.get ch) reading = none) (full : 100 ≤ (s.ladders.get ch).indeterminateRun + 1) :
    entersFaultAt ch reading s = true := by
  unfold entersFaultAt
  dsimp only
  rw [normal, outside]
  exact decide_eq_true full

theorem setLadder_tracker (v : LadderState) (src : Source) : (s.setLadder ch v).tracker src = s.tracker src := rfl

/-! ## The zone told -/

/-- The zone re-evaluated is HELD exactly where it is called, whatever it was before (R143). -/
theorem reevaluate_held_iff (z : ZoneId) (s : State) :
    ((reevaluate z s).zones.get z).state = .held ↔ called (reevaluate z s) z = true := by
  rw [reevaluate_called]
  unfold reevaluate
  cases hs : (s.zones.get z).state <;> cases hc : called s z <;> simp [enterZone_zones, leaveHeld_ne_held, hs]

/-- What a change of a channel's state that is made known leaves alone. -/
theorem ladderMadeKnown_fields (ch : ChannelId) (n : ChannelState) (s : State) :
    (ladderMadeKnown ch n s).ladders = s.ladders ∧ (∀ src, (ladderMadeKnown ch n s).tracker src = s.tracker src) ∧
      (ladderMadeKnown ch n s).circuits = s.circuits ∧ (ladderMadeKnown ch n s).flags = s.flags := by
  have frame := ladderMadeKnown_frame ch n s
  have core := frame.core
  unfold OnlyZones at frame
  exact ⟨by rw [frame], core.tracker, core.circuits, by rw [frame]⟩

/-! ## The windows -/

theorem Table.mem_indexed_take {α : Type} {n k : Nat} {t : Table α n} {i : Fin n} {a : α} :
    (i, a) ∈ t.indexed.take k ↔ i.val < k ∧ t.get i = a := by
  have size : t.indexed.length = n := by simp [Table.indexed, t.size]
  have at_ (j : Nat) (hj : j < t.indexed.length) : t.indexed[j] = (⟨j, size ▸ hj⟩, t.get ⟨j, size ▸ hj⟩) := by
    simp [Table.indexed, Table.get_eq_getElem]
  rw [List.mem_take_iff_getElem]
  constructor
  · rintro ⟨j, hj, e⟩
    rw [at_] at e
    simp only [Prod.mk.injEq] at e
    obtain ⟨rfl, e⟩ := e
    exact ⟨by simp; omega, e⟩
  · rintro ⟨low, e⟩
    refine ⟨i.val, by simp [size]; omega, ?_⟩
    rw [at_]
    simp [e]

theorem LadderSettings.ok_apart {ls : LadderSettings} (h : ls.ok = true) : windowsApart ls.buttonCount ls.windows = true := by
  simp only [LadderSettings.ok, Bool.and_eq_true] at h
  exact h.1.1.1.1.2

/-- Two defined windows that share a reading are one (R11). -/
theorem windowsApart_unique {n : Nat} {t : Table Window 7} (h : windowsApart n t = true) {v w : Fin 7} (hv : v.val ≤ n)
    (hw : w.val ≤ n) (inV : (t.get v).low ≤ reading ∧ reading ≤ (t.get v).high)
    (inW : (t.get w).low ≤ reading ∧ reading ≤ (t.get w).high) : v = w := by
  unfold windowsApart at h
  simp only [List.all_eq_true, Bool.or_eq_true, decide_eq_true_eq, Bool.not_eq_true'] at h
  rcases h (v, t.get v) (Table.mem_indexed_take.mpr ⟨by omega, rfl⟩) (w, t.get w)
    (Table.mem_indexed_take.mpr ⟨by omega, rfl⟩) with same | apart
  · exact same
  · simp only [Window.overlaps, Bool.and_eq_false_iff, decide_eq_false_iff_not] at apart
    omega

/-- Settles O9: the decoder takes the first defined window that holds the reading, and no two hold it. -/
theorem readingsFindTheOneWindow : Obligations.ReadingsFindTheOneWindow := by
  intro ls reading w ok
  have apart := ls.ok_apart ok
  have defined {v : Fin 7} {x : Window} (found : (ls.windows.indexed.take (ls.buttonCount + 1)).find? (fun w =>
      decide (w.2.low ≤ reading) && decide (reading ≤ w.2.high)) = some (v, x)) :
      v.val ≤ ls.buttonCount ∧ (ls.windows.get v).low ≤ reading ∧ reading ≤ (ls.windows.get v).high := by
    obtain ⟨low, e⟩ := Table.mem_indexed_take.mp (List.mem_of_find?_eq_some found)
    have inside := List.find?_some found
    simp only [Bool.and_eq_true, decide_eq_true_eq] at inside
    subst e
    exact ⟨by omega, inside⟩
  unfold windowOf
  rw [Option.map_eq_some_iff]
  constructor
  · rintro ⟨⟨v, x⟩, found, e⟩
    obtain rfl : v = w := Fin.ext e
    exact defined found
  · rintro ⟨low, inside⟩
    cases found : (ls.windows.indexed.take (ls.buttonCount + 1)).find? fun w =>
        decide (w.2.low ≤ reading) && decide (reading ≤ w.2.high) with
    | none =>
      have no := List.find?_eq_none.mp found (w, ls.windows.get w) (Table.mem_indexed_take.mpr ⟨by omega, rfl⟩)
      simp [inside] at no
    | some vx =>
      obtain ⟨lowV, insideV⟩ := defined found
      exact ⟨vx, rfl, congrArg Fin.val (windowsApart_unique apart lowV low insideV inside)⟩

/-! ## The statements -/

/-- Settles O6: the branches of a sample that only count. -/
theorem samplesAreCounted : Obligations.SamplesAreCounted := by
  refine ⟨fun i raw s running => ⟨fun ladder => ?_, fun contact filtering same => ?_, fun contact filtering differs short => ?_,
    fun level n a contact settling short => ?_, fun a contact settling short => ?_⟩, fun ch reading s running => ⟨fun off => ?_,
    fun w normal inside counting => ?_, fun normal outside short => ?_, fun fault short => ?_⟩⟩
  · refine (event_of_running running).trans ?_
    rw [sampleContact_ladder ladder]
  · refine (event_of_running running).trans ?_
    rw [sampleContact_running contact filtering, if_pos same]
  · refine (event_of_running running).trans ?_
    rw [sampleContact_running contact filtering, if_neg differs, if_neg (by omega)]
  · refine (event_of_running running).trans ?_
    rw [sampleContact_settling contact settling,
      if_neg (show ¬ _ ≤ settlingCount (some (level, n)) raw from Nat.not_le.mpr short)]
    rfl
  · refine (event_of_running running).trans ?_
    rw [sampleContact_settling contact settling, if_neg (show ¬ _ ≤ settlingCount none raw from Nat.not_le.mpr short)]
    rfl
  · refine (event_of_running running).trans ?_
    rw [show sampleLadder ch reading s = s by unfold sampleLadder; rw [off]]
  · refine (event_of_running running).trans ?_
    rw [sampleLadder_of_window normal inside, windowSample_of_counting counting]
    rfl
  · refine (event_of_running running).trans ?_
    rw [sampleLadder_of_indeterminate normal outside, if_neg (by omega)]
  · refine (event_of_running running).trans ?_
    rw [sampleLadder_of_fault fault, faultSample, if_neg (show ¬ _ ≤ recoveryRunAt ch reading s from Nat.not_le.mpr short)]
    rfl

/-- Settles O10: the release reaches the old button's tracker and the press the new one's, which are two. -/
theorem decodeChangeReleasesThenPresses : Obligations.DecodeChangeReleasesThenPresses := by
  intro ch reading w s ls l run running normal inside reached settled new
  have reaches : reachesStability ch w s = true := reachesStability_iff.mpr reached
  have sample : sampleLadder ch reading s = forButton ch w press (forButton ch l.decode release
      (s.setLadder ch { l.counted w with decode := w })) := by
    rw [sampleLadder_of_window normal inside, windowSample_of_change reaches settled new]
  have changes := decodeChangesAt_of_change normal inside reaches settled new
  generalize hc : s.setLadder ch { l.counted w with decode := w } = changed at sample
  generalize hr : forButton ch l.decode release changed = released at sample
  have laddersC : changed.ladders = s.ladders.set ch { l.counted w with decode := w } := by rw [← hc]; rfl
  have laddersR : released.ladders = changed.ladders := by rw [← hr]; exact forButton_ladders release_ladders _
  have settings : released.settings.ladders = s.settings.ladders := by
    have := (forButton_frame ch l.decode release release_frame changed).ladderSettings
    rw [hr] at this
    rw [this, ← hc]
    rfl
  have trackersC (src : Source) : changed.tracker src = s.tracker src := by rw [← hc]; rfl
  have trackersR {src : Source} (h : ∀ b : LadderButton, src = .ladder ch b → l.decode ≠ b.val + 1) :
      released.tracker src = s.tracker src := by
    rw [← hr, forButton_other (fun _ u _ h => release_other u h) h, trackersC]
  refine ⟨serve (sampleLadder ch reading s), eventIf_of_possible running changes, event_of_running running, ?_,
    ⟨changed, released, sampleLadder ch reading s, hc.symm, fun b e => ?_, fun none => ?_, fun b e => ?_, fun none => ?_, rfl⟩,
    fun b e => ?_, fun b e idle => ?_, fun src apart => ?_⟩
  · rw [serve_ladders, sample, forButton_ladders press_ladders, laddersR, laddersC]
    rfl
  · rw [← hr, forButton_of_button e]
  · rw [← hr, forButton_of_none none]
  · rw [sample, forButton_of_button e]
  · rw [sample, forButton_of_none none]
  · rw [serve_tracker, sample, forButton_other (fun _ u _ h => press_other u h) fun b' e' => ?_, ← hr, forButton_of_button e]
    · exact release_idle _ _
    · cases e'
      omega
  · have old : released.tracker (.ladder ch b) = s.tracker (.ladder ch b) := trackersR fun b' e' => by
      cases e'
      omega
    rw [serve_tracker, sample, forButton_of_button e, press_starts _ _ (by rw [old]; exact .inl idle)]
    refine ⟨rfl, rfl, ?_⟩
    show some ((released.settings.ladders.get ch).holdTime * 100) = _
    rw [settings]
  · rw [serve_tracker, sample, forButton_other (fun _ u _ h => press_other u h) fun b e => (apart b e).2,
      trackersR fun b e => (apart b e).1]

/-- Settles O11: a baseline dispatches nothing, and takes one tracker from IDLE to LATENT. -/
theorem firstDecodeIsABaseline : Obligations.FirstDecodeIsABaseline := by
  intro ch reading w s ls l run running normal inside reached pending
  have reaches : reachesStability ch w s = true := reachesStability_iff.mpr reached
  have sample : sampleLadder ch reading s = forButton ch w baseline
      (s.setLadder ch { l.counted w with decode := w, baselinePending := false }) := by
    rw [sampleLadder_of_window normal inside, windowSample_of_baseline reaches pending]
  have takes := takesBaselineAt_of_pending normal inside reaches pending
  generalize hu : s.setLadder ch { l.counted w with decode := w, baselinePending := false } = taken at sample
  have trackers (src : Source) : taken.tracker src = s.tracker src := by rw [← hu]; rfl
  have fields : ∀ {u : State}, u = forButton ch w baseline taken →
      u.ladders = taken.ladders ∧ u.circuits = taken.circuits ∧ u.zones = taken.zones ∧ u.flags = taken.flags ∧
        u.ramps = taken.ramps := by
    rintro _ rfl
    unfold forButton
    split
    · unfold baseline
      split <;> simp
    · exact ⟨rfl, rfl, rfl, rfl, rfl⟩
  obtain ⟨ladders, circuits, zones, flags, ramps⟩ := fields sample
  refine ⟨serve (sampleLadder ch reading s), eventIf_of_possible running takes, event_of_running running, ?_,
    ⟨fun b e => ?_, fun none => ?_⟩, fun b e idle => ?_, fun src apart => ?_, ?_⟩
  · rw [serve_ladders, ladders, ← hu]
    rfl
  · rw [sample, forButton_of_button e, ← hu]
    rfl
  · rw [sample, forButton_of_none none, ← hu]
    rfl
  · rw [serve_tracker, sample, forButton_of_button e, baseline_latent _ _ (by rw [trackers]; exact idle),
      State.tracker_setTracker_self]
  · rw [serve_tracker, sample]
    rcases apart with busy | apart
    · by_cases hb : ∃ b : LadderButton, src = .ladder ch b ∧ w = b.val + 1
      · obtain ⟨b, rfl, e⟩ := hb
        rw [forButton_of_button e, baseline_ignored _ _ (by rw [trackers]; exact busy), trackers]
      · rw [forButton_other (fun _ u _ h => baseline_other u h) fun b e e' => hb ⟨b, e, e'⟩, trackers]
    · rw [forButton_other (fun _ u _ h => baseline_other u h) apart, trackers]
  · simp only [serve_circuits, serve_zones, serve_flags, serve_ramps, circuits, zones, flags, ramps, ← hu]
    exact ⟨rfl, rfl, rfl, rfl⟩

/-- Settles O12: both changes of state go through the same report and re-evaluation, the fault's after the release. -/
theorem ladderFaultAndRecovery : Obligations.LadderFaultAndRecovery := by
  intro ch reading s ls l running
  refine ⟨fun normal outside full => ?_, fun fault full => ?_⟩
  · have sample : sampleLadder ch reading s = enterFault ch s := by
      rw [sampleLadder_of_indeterminate normal outside, if_pos full]
    have enters := entersFaultAt_of_full normal outside full
    generalize hr : forButton ch l.decode synthesizedRelease s = released
    have ladders : released.ladders = s.ladders := by rw [← hr]; exact forButton_ladders synthesizedRelease_ladders _
    have settings : released.settings.ladders = s.settings.ladders := by
      rw [← hr]
      exact (forButton_frame ch l.decode _ synthesizedRelease_frame s).ladderSettings
    have entered : enterFault ch s = ladderMadeKnown ch .fault (released.setLadder ch { LadderState.off with state := .fault }) := by
      rw [← hr]
      rfl
    have known : enterFault ch s = reevaluate ls.homeZone (raise (.ladder ch .fault)
        (released.setLadder ch { LadderState.off with state := .fault })) := by
      rw [entered, ladderMadeKnown, State.setLadder_settings, settings]
    obtain ⟨laddersK, trackersK, -, -⟩ := ladderMadeKnown_fields ch .fault
      (released.setLadder ch { LadderState.off with state := .fault })
    rw [← entered] at laddersK trackersK
    refine ⟨serve (enterFault ch s), eventIf_of_possible running enters, ?_,
      ⟨released, fun b e => ?_, fun none => ?_, congrArg serve known⟩, ?_, fun b e => ?_, fun src apart => ?_, ?_⟩
    · rw [← sample]
      exact event_of_running running
    · rw [← hr, forButton_of_button e]
    · rw [← hr, forButton_of_none none]
    · rw [serve_ladders, laddersK, State.setLadder_ladders, ladders]
      rfl
    · rw [serve_tracker, trackersK, setLadder_tracker, ← hr, forButton_of_button e]
      exact synthesizedRelease_idle _ _
    · rw [serve_tracker, trackersK, setLadder_tracker, ← hr,
        forButton_other (fun _ u _ h => synthesizedRelease_other u h) apart]
    · rw [serve_zones, serve_called, known]
      exact reevaluate_held_iff _ _
  · have sample : sampleLadder ch reading s = ladderMadeKnown ch .normal (s.setLadder ch { LadderState.off with state := .normal }) := by
      rw [sampleLadder_of_fault fault, faultSample, if_pos (show _ ≤ recoveryRunAt ch reading s from full)]
    have recovers : recoversAt ch reading s = true := by
      simp only [recoversAt, show (s.ladders.get ch).state = _ from fault, decide_true, Bool.true_and, decide_eq_true_eq]
      exact full
    obtain ⟨laddersK, trackersK, circuitsK, flagsK⟩ := ladderMadeKnown_fields ch .normal
      (s.setLadder ch { LadderState.off with state := .normal })
    refine ⟨serve (sampleLadder ch reading s), ?_, event_of_running running, ?_, ?_, fun src => ?_, ?_, ?_, ?_⟩
    · rw [sampleLadder_of_fault fault]
      exact eventIf_of_possible running recovers
    · rw [sample]
      rfl
    · rw [serve_ladders, sample, laddersK]
      rfl
    · rw [serve_tracker, sample, trackersK]
      rfl
    · rw [serve_circuits, sample, circuitsK]
      rfl
    · rw [serve_flags, sample, flagsK]
      rfl
    · rw [serve_zones, serve_called, sample]
      exact reevaluate_held_iff _ _

end Sys2Proof.Machine

/-! PROOFS. The station bus: its frames and turns, a good IDENT reply, a key map, the two timers (R24 to R32, R36 to R40, R189). -/

namespace Sys2Proof.Machine

/-! ## The rotation (R24) -/

theorem find?_finRange {n : Nat} {p : Fin n → Bool} {b : Fin n} :
    (List.finRange n).find? p = some b ↔ p b = true ∧ ∀ c < b, p c = false := by
  rw [List.find?_eq_some_iff_getElem]
  refine and_congr_right fun _ => ⟨?_, fun before => ⟨b.val, by simp, by simp, fun j hj => ?_⟩⟩
  · rintro ⟨k, hk, e, before⟩ c hc
    rw [List.getElem_finRange] at e
    have less : c.val < k := by
      have : b.val = k := by rw [← e]; rfl
      omega
    simpa using before c.val less
  · simpa using before ⟨j, by omega⟩ (Fin.mk_lt_of_lt_val hj)

theorem served_iff {s : State} {a : StationId} : served s a = true ↔ InRotation s a := by
  simp [served, InRotation]

theorem served_eq_false {s : State} {a : StationId} : served s a = false ↔ ¬InRotation s a := by
  rw [← served_iff, Bool.not_eq_true]

theorem firstServed_eq_some {s : State} {b : StationId} :
    firstServed s = some b ↔ InRotation s b ∧ ∀ c, c < b → ¬InRotation s c := by
  simp only [firstServed, find?_finRange, served_iff, served_eq_false]

theorem firstServed_eq_none {s : State} : firstServed s = none ↔ ∀ b, ¬InRotation s b := by
  simp only [firstServed, List.find?_eq_none, List.mem_finRange, forall_true_left, served_iff]

/-- The next station is the first of the rotation above the one just served, or else the first of all (R24). -/
theorem nextServed_eq_some {s : State} {a b : StationId} : nextServed a s = some b ↔ InRotation s b ∧
    ((a < b ∧ ∀ c, a < c → c < b → ¬InRotation s c) ∨
      ((∀ c, a < c → ¬InRotation s c) ∧ ∀ c, c < b → ¬InRotation s c)) := by
  unfold nextServed
  cases found : (List.finRange 32).find? fun b => decide (a < b) && served s b with
  | none =>
    have above : ∀ c, a < c → ¬InRotation s c := by simpa [served_iff] using found
    simp only [firstServed_eq_some]
    constructor
    · exact fun ⟨hb, before⟩ => ⟨hb, .inr ⟨above, before⟩⟩
    · rintro ⟨hb, ⟨lt, -⟩ | ⟨-, before⟩⟩
      · exact absurd hb (above b lt)
      · exact ⟨hb, before⟩
  | some d =>
    obtain ⟨hd, before⟩ := find?_finRange.mp found
    simp only [Bool.and_eq_true, decide_eq_true_eq, served_iff] at hd
    have before : ∀ c, a < c → c < d → ¬InRotation s c := fun c hac hcd => by
      simpa [hac, served_eq_false] using before c hcd
    simp only [Option.some.injEq]
    constructor
    · rintro rfl
      exact ⟨hd.2, .inl ⟨hd.1, before⟩⟩
    · rintro ⟨hb, ⟨lt, between⟩ | ⟨above, -⟩⟩
      · rcases lt_trichotomy d b with less | e | more
        · exact absurd hd.2 (between d hd.1 less)
        · exact e
        · exact absurd hb (before b lt more)
      · exact absurd hd.2 (above d hd.1)

theorem nextServed_eq_none {s : State} {a : StationId} : nextServed a s = none ↔ ∀ b, ¬InRotation s b := by
  constructor
  · intro h
    unfold nextServed at h
    split at h
    · cases h
    · exact firstServed_eq_none.mp h
  · intro none
    cases h : nextServed a s with
    | none => rfl
    | some b => exact absurd (nextServed_eq_some.mp h).1 (none b)

/-! ## The end of a turn -/

theorem enterStation_eq (a : StationId) (v : StationState) (s : State) : enterStation a v s = recorded a v s := rfl

/-- The turn that begins is the one that the state at the end of the step gives. -/
theorem turnEnded_turn (a : StationId) (s : State) :
    (serve (turnEnded a s)).turn = (nextServed a (serve (turnEnded a s))).map (newTurn (serve (turnEnded a s))) := by
  rw [serve_frame]
  rfl

theorem turnEnded_tracker (a : StationId) (s : State) (src : Source) :
    (serve (turnEnded a s)).tracker src = s.tracker src := (serve_tracker _ _).trans rfl

theorem turnEnded_stations (a : StationId) (s : State) : (serve (turnEnded a s)).stations = s.stations := serve_stations _

theorem turnEnded_zones (a : StationId) (s : State) : (serve (turnEnded a s)).zones = s.zones := serve_zones _

theorem turnEnded_called (a : StationId) (s : State) (z : ZoneId) :
    called (serve (turnEnded a s)) z = called s z := (serve_called _ _).trans rfl

/-- What a change of a station's record leaves alone. -/
theorem recorded_fields (a : StationId) (v : StationState) (s : State) : (recorded a v s).stations = s.stations.set a v ∧
    (∀ src, (recorded a v s).tracker src = s.tracker src) ∧ (recorded a v s).zones = s.zones := by
  have frame := enterStation_frame a v s
  have core := frame.zones.core
  rw [enterStation_eq] at frame core
  unfold OnlyReports at frame
  exact ⟨by rw [frame]; rfl, core.tracker, by rw [frame]; rfl⟩

theorem reevaluate_fields (z : ZoneId) (s : State) : (reevaluate z s).stations = s.stations ∧
    ∀ src, (reevaluate z s).tracker src = s.tracker src := by
  have frame := reevaluate_frame z s
  have core := frame.core
  unfold OnlyZones at frame
  exact ⟨by rw [frame], core.tracker⟩

/-! ## Replies -/

theorem openTurn_of_window {s : State} {tn : Turn} (h : s.turn = some tn) (w : tn.window.isSome = true) :
    openTurn s = some tn := by
  unfold openTurn
  rw [h]
  simp [w]

theorem goodIdent_of {a : StationId} {r : BusReply} {ty n : Byte} (ha : r.address = addressByte a) (hk : r.kind = 0x82)
    (hd : r.data = [ty, n]) (ht : ty ≠ 0) (hn : n.toNat ≤ 8) (hx : r.address ^^^ r.kind ^^^ ty ^^^ n ^^^ r.check = 0) :
    goodIdent a r = some (ty, n.toNat) := by
  have right : busCheckRight r = true := by simp [busCheckRight, xorBytes, hd, hx]
  unfold goodIdent
  rw [if_pos (by simp [right, ha, hk]), hd]
  exact if_pos ⟨ht, hn⟩

theorem goodState_of {a : StationId} {r : BusReply} {m : Byte} (ha : r.address = addressByte a) (hk : r.kind = 0x81)
    (hd : r.data = [m]) (hx : r.address ^^^ r.kind ^^^ m ^^^ r.check = 0) : goodState a r = some m := by
  have right : busCheckRight r = true := by simp [busCheckRight, xorBytes, hd, hx]
  simp [goodState, right, ha, hk, hd]

theorem identReply_next {s : State} {tn : Turn} {r : BusReply} {c : Byte} {n : Nat} (running : s.power = .running)
    (h : openTurn s = some tn) (ident : tn.request = .ident) (good : goodIdent tn.address r = some (c, n)) :
    exec (.identReply r) s = .next (serve (identTurn tn c n s)) := by
  have reply : identReplyOf r s = some (tn, c, n) := by
    unfold identReplyOf
    simp [h, ident, good]
  have possible : (identReplyOf r s).isSome = true := by rw [reply]; rfl
  show execIdentReply r s = _
  unfold execIdentReply execIdentReplyBy
  rw [eventIf_of_possible (p := fun s => (identReplyOf r s).isSome) running possible, reply]
  rfl

theorem stateReply_next {s : State} {tn : Turn} {r : BusReply} {p : Table Pattern 8} {m : BitVec 8}
    (running : s.power = .running) (h : openTurn s = some tn) (poll : tn.request = .poll p)
    (good : goodState tn.address r = some m) : exec (.stateReply r) s = .next (serve (stateTurn tn m s)) := by
  have reply : stateReplyOf r s = some (tn, m) := by
    unfold stateReplyOf
    simp [h, poll, good]
  have possible : (stateReplyOf r s).isSome = true := by rw [reply]; rfl
  show execStateReply r s = _
  unfold execStateReply
  rw [eventIf_of_possible (p := fun s => (stateReplyOf r s).isSome) running possible, reply]

/-! ## The buttons of a station, one after the other -/

/-- Where each button's arrival reaches its own tracker alone, a pass over distinct buttons reaches each of theirs once. -/
theorem foldl_buttons_tracker {a : StationId} {f : State → ButtonId → State}
    (others : ∀ u b src, src ≠ .station a b → (f u b).tracker src = u.tracker src) (l : List ButtonId) (distinct : l.Nodup)
    (s : State) : (∀ src, (∀ b ∈ l, src ≠ .station a b) → (l.foldl f s).tracker src = s.tracker src) ∧
      ∀ b ∈ l, ∃ u, u.tracker (.station a b) = s.tracker (.station a b) ∧
        (l.foldl f s).tracker (.station a b) = (f u b).tracker (.station a b) := by
  induction l generalizing s with
  | nil => exact ⟨fun _ _ => rfl, fun b hb => absurd hb List.not_mem_nil⟩
  | cons c l ih =>
    obtain ⟨new, distinct⟩ := List.nodup_cons.mp distinct
    obtain ⟨apart, reached⟩ := ih distinct (f s c)
    have kept (src : Source) (h : src ≠ .station a c) := others s c src h
    refine ⟨fun src h => ?_, fun b hb => ?_⟩
    · rw [List.foldl_cons, apart src fun b hb => h b (List.mem_cons_of_mem _ hb), kept src (h c List.mem_cons_self)]
    · rw [List.foldl_cons]
      rcases List.mem_cons.mp hb with rfl | hb
      · refine ⟨s, rfl, apart _ fun d hd e => new ?_⟩
        cases e
        exact hd
      · obtain ⟨u, old, e⟩ := reached b hb
        refine ⟨u, old.trans (kept _ fun same => new ?_), e⟩
        cases same
        exact hb

/-- What the gestures of one station's buttons leave of the stations: all but that station's overrides (R37). -/
structure OnlyOverrides (a : StationId) (s t : State) : Prop where
  here : t.stations.get a = { s.stations.get a with overrides := (t.stations.get a).overrides }
  others : ∀ a', a' ≠ a → t.stations.get a' = s.stations.get a'
  settings : t.settings.stations = s.settings.stations

theorem OnlyOverrides.refl (a : StationId) (s : State) : OnlyOverrides a s s := ⟨rfl, fun _ _ => rfl, rfl⟩

theorem OnlyOverrides.trans {a : StationId} {s t u : State} (h : OnlyOverrides a s t) (k : OnlyOverrides a t u) :
    OnlyOverrides a s u where
  here := by
    rw [k.here, h.here]
  others a' ne := (k.others a' ne).trans (h.others a' ne)
  settings := k.settings.trans h.settings

theorem OnlyOverrides.ofGesture {a : StationId} {b : ButtonId} {s t : State} (frame : OnlyDispatched (.station a b) s t)
    (others : ∀ a', (∀ c, Source.station a b ≠ .station a' c) → t.stations.get a' = s.stations.get a') :
    OnlyOverrides a s t where
  here := (frame.bus rfl).2 a
  others a' ne := others a' fun c e => ne (by cases e; rfl)
  settings := frame.stationSettings

theorem press_overrides (a : StationId) (b : ButtonId) (s : State) : OnlyOverrides a s (press (.station a b) s) :=
  .ofGesture (press_frame _ _) fun a' h => press_stations _ _ a' rfl h

theorem release_overrides (a : StationId) (b : ButtonId) (s : State) : OnlyOverrides a s (release (.station a b) s) :=
  .ofGesture (release_frame _ _) fun a' h => release_stations _ _ a' rfl h

theorem synthesizedRelease_overrides (a : StationId) (b : ButtonId) (s : State) :
    OnlyOverrides a s (synthesizedRelease (.station a b) s) :=
  .ofGesture (synthesizedRelease_frame _ _) fun a' h => synthesizedRelease_stations _ _ a' rfl h

theorem foldl_overrides {a : StationId} {f : State → ButtonId → State} (step : ∀ u b, OnlyOverrides a u (f u b))
    (l : List ButtonId) (s : State) : OnlyOverrides a s (l.foldl f s) :=
  foldl_kept (P := OnlyOverrides a s) (fun u b h => h.trans (step u b)) l s (.refl a s)

/-! ## Requests on the bus (R189) -/

/-- A list with its own check behind it comes to 00h. -/
theorem xorBytes_checked (l : List Byte) : (l ++ [xorBytes l]).foldl (· ^^^ ·) 0 = (0 : Byte) := by
  rw [List.foldl_append]
  simp [xorBytes]

theorem Pattern.code_le (p : Pattern) : p.code ≤ 4 := by cases p <;> simp [Pattern.code]

theorem indicatorBytes_length (p : Table Pattern 8) : (indicatorBytes p).length = 4 := by simp [indicatorBytes]

theorem indicatorBytes_getD (p : Table Pattern 8) {i : Nat} (h : i < 4) : ((indicatorBytes p).getD i 0).toNat =
    (p.get ⟨2 * i, by omega⟩).code + 16 * (p.get ⟨2 * i + 1, by omega⟩).code := by
  have low := (p.get ⟨2 * i, by omega⟩).code_le
  have high := (p.get ⟨2 * i + 1, by omega⟩).code_le
  simp [indicatorBytes, List.getD_eq_getElem?_getD, h]
  omega

/-- Each button's code stands in its four bits (R189). -/
theorem indicatorBytes_nibble (p : Table Pattern 8) (b : ButtonId) :
    ((indicatorBytes p).getD (b.val / 2) 0).toNat / 16 ^ (b.val % 2) % 16 = (p.get b).code := by
  rw [indicatorBytes_getD p (by omega)]
  have low := (p.get ⟨2 * (b.val / 2), by omega⟩).code_le
  have high := (p.get ⟨2 * (b.val / 2) + 1, by omega⟩).code_le
  rcases Nat.mod_two_eq_zero_or_one b.val with even | odd
  · have same : p.get ⟨2 * (b.val / 2), by omega⟩ = p.get b := congrArg p.get (Fin.ext (by simp; omega))
    rw [same] at low ⊢
    rw [even, pow_zero, Nat.div_one]
    omega
  · have same : p.get ⟨2 * (b.val / 2) + 1, by omega⟩ = p.get b := congrArg p.get (Fin.ext (by simp; omega))
    rw [same] at high ⊢
    rw [odd, pow_one]
    omega

/-! ## The statements -/

/-- Settles O13: the two events, each with its one field. -/
theorem busTimersDoNothingElse : Obligations.BusTimersDoNothingElse := by
  refine fun s running => ⟨fun t turn closed => ?_, fun a b runs => ?_⟩
  · show execReplyWindowOpen s = _
    unfold execReplyWindowOpen eventIf
    rw [whenRunning_of_running running]
    simp [turn, closed, replyWindow]
  · exact eventIf_of_possible (p := fun s => ((s.stations.get a).overrides.get b).isSome) running runs

/-- Settles O14: a good reply is recorded, made known and ends the turn; and the two searches of the rotation. -/
theorem identReplyIdentifiesTheStation : Obligations.IdentReplyIdentifiesTheStation := by
  refine ⟨?_, fun a s => ⟨fun b => nextServed_eq_some, nextServed_eq_none, fun b => firstServed_eq_some, firstServed_eq_none⟩⟩
  intro tn r ty n s a cs st running turn opened ident undeferred address kind data known few check
  have next := identReply_next running (openTurn_of_window turn opened) ident
    (goodIdent_of address kind data known few check)
  have record : identifiedRecord cs ty n.toNat st =
      if ty.toNat = cs.expectedType then
        { st with state := .active, reportedType := ty, reportedButtons := n.toNat, misses := 0, keyMap := 0,
                  baselinePending := true }
      else { st with state := .mismatch, reportedType := ty, reportedButtons := n.toNat } := by
    unfold identifiedRecord identifiedState
    split <;> rfl
  have step : identTurn tn ty n.toNat s = turnEnded a (reevaluate cs.homeZone
      (recorded a (identifiedRecord cs ty n.toNat st) s)) := by
    unfold identTurn identTurnBy
    rw [undeferred]
    rfl
  obtain ⟨stationsR, trackersR, -⟩ := recorded_fields a (identifiedRecord cs ty n.toNat st) s
  obtain ⟨stationsZ, trackersZ⟩ := reevaluate_fields cs.homeZone (recorded a (identifiedRecord cs ty n.toNat st) s)
  rw [step] at next
  have stations := (turnEnded_stations a _).trans (stationsZ.trans stationsR)
  refine ⟨_, next, by rw [record], fun same => ?_, fun other => ?_, fun src => ?_, ?_, turnEnded_turn a _⟩
  · rw [stations, record, if_pos same]
  · rw [stations, record, if_neg other]
  · rw [turnEnded_tracker, trackersZ, trackersR]
  · rw [turnEnded_zones, turnEnded_called]
    exact reevaluate_held_iff _ _

/-- Settles O18: the check, the four bits of each button, and the request that a turn is given. -/
theorem busRequestsAreFramedAndCarryThePatterns : Obligations.BusRequestsAreFramedAndCarryThePatterns := by
  refine ⟨fun t => ⟨rfl, xorBytes_checked _⟩, fun t p poll => ?_, fun t ident => ?_, fun s a => ⟨fun other => ?_, fun active => ?_⟩⟩
  · have bytes : t.requestBytes = 0x55 :: addressByte t.address :: 0x01 :: (indicatorBytes p ++
        [xorBytes (addressByte t.address :: 0x01 :: indicatorBytes p)]) := by
      unfold Turn.requestBytes
      rw [poll]
      rfl
    rw [bytes]
    refine ⟨by simp [indicatorBytes_length], rfl, fun b => ?_⟩
    rw [← indicatorBytes_nibble p b, Nat.add_comm 3]
    have inside : b.val / 2 < (indicatorBytes p).length := by rw [indicatorBytes_length]; omega
    simp [List.getD_eq_getElem?_getD, List.getElem?_append_left inside]
  · unfold Turn.requestBytes
    rw [ident]
    exact ⟨rfl, rfl⟩
  · simp [newTurn, other]
  · refine ⟨Table.ofFn (buttonPattern s a), by simp [newTurn, active], fun b => ?_⟩
    rw [Table.get_ofFn]
    unfold buttonPattern
    refine if_congr Iff.rfl rfl (if_congr Iff.rfl rfl ?_)
    cases (s.settings.stations.get a).indicators.get b <;> rfl

end Sys2Proof.Machine

/-! PROOFS. The outcomes of a turn: a key map, a failure, the third miss, and the transition that waited (R23, R28 to R34, R39,
R40). -/

namespace Sys2Proof.Machine

/-! ## One station's record -/

theorem Table.set_set {α : Type} {n : Nat} (t : Table α n) (i : Fin n) (x y : α) : (t.set i x).set i y = t.set i y :=
  Table.ext_get fun j => by
    simp only [Table.get_set]
    split <;> rfl

theorem setStation_setStation (a : StationId) (v w : StationState) (s : State) :
    (s.setStation a v).setStation a w = s.setStation a w := by
  unfold State.setStation
  rw [Table.set_set]

theorem setStation_self (a : StationId) (s : State) : s.setStation a (s.stations.get a) = s := by
  unfold State.setStation
  rw [Table.set_get]

theorem OnlyOverrides.set {a : StationId} {s t : State} (h : OnlyOverrides a s t) (v : StationState) :
    t.stations.set a v = s.stations.set a v := Table.ext_get fun a' => by
  rw [Table.get_set, Table.get_set]
  split
  · rfl
  · next ne => exact h.others a' (Ne.symm ne)

/-- The record that a failed turn's tally is counted in (R34). -/
def StationState.failed (st : StationState) (bad : Bool) : StationState :=
  if bad then { st with badReplies := min 65535 (st.badReplies + 1) } else { st with noReplies := min 65535 (st.noReplies + 1) }

theorem countFailure_eq (a : StationId) (bad : Bool) (s : State) :
    countFailure a bad s = s.setStation a ((s.stations.get a).failed bad) := rfl

theorem failed_fields (st : StationState) (bad : Bool) : (st.failed bad).state = st.state ∧
    (st.failed bad).keyMap = st.keyMap ∧ (st.failed bad).misses = st.misses := by
  unfold StationState.failed
  split <;> exact ⟨rfl, rfl, rfl⟩

/-- The record that a station is left with where its turn ends with the transition that waited (R23). -/
def StationState.written (cs : StationSettings) (st : StationState) : StationState :=
  { st with
    state := if cs.enabled then .identifying else .offline, keyMap := 0, baselinePending := false, misses := 0,
    overrides := Table.replicate 8 none, uncounted := false }

/-! ## Synthesized releases of a station -/

theorem held_nodup (p : ButtonId → Bool) : ((List.finRange 8).filter p).Nodup := (List.nodup_finRange 8).filter _

theorem releasedInOrder_overrides (a : StationId) (m : BitVec 8) (s : State) :
    OnlyOverrides a s (releasedInOrder a m s) := foldl_overrides (fun u b => synthesizedRelease_overrides a b u) _ s

theorem releasedInOrder_idle {a : StationId} {m : BitVec 8} {b : ButtonId} (h : m.getLsbD b.val = true) (s : State) :
    ((releasedInOrder a m s).tracker (.station a b)).state = .idle := by
  obtain ⟨u, -, e⟩ := (foldl_buttons_tracker (fun u b src other => synthesizedRelease_other u other) _
    (held_nodup fun b => m.getLsbD b.val) s).2 b (by simp [h])
  rw [releasedInOrder, e]
  exact synthesizedRelease_idle _ _

theorem releasedInOrder_other {a : StationId} {m : BitVec 8} {src : Source}
    (h : ∀ b : ButtonId, src = .station a b → m.getLsbD b.val = false) (s : State) :
    (releasedInOrder a m s).tracker src = s.tracker src :=
  (foldl_buttons_tracker (fun u b src other => synthesizedRelease_other u other) _
    (held_nodup fun b => m.getLsbD b.val) s).1 src fun b hb e =>
      absurd ((List.mem_filter.mp hb).2.symm.trans (h b e)) (by simp)

/-- The synthesized releases of a station that is left: those of its key map while it is ACTIVE (R23, R29). -/
def releasedLeaving (a : StationId) (st : StationState) (s : State) : State :=
  if st.state = .active then releasedInOrder a st.keyMap s else s

theorem releasedLeaving_overrides (a : StationId) (st : StationState) (s : State) :
    OnlyOverrides a s (releasedLeaving a st s) := by
  unfold releasedLeaving
  split
  · exact releasedInOrder_overrides _ _ _
  · exact .refl a s

theorem releasedLeaving_idle {a : StationId} {st : StationState} {b : ButtonId} (active : st.state = .active)
    (h : st.keyMap.getLsbD b.val = true) (s : State) : ((releasedLeaving a st s).tracker (.station a b)).state = .idle := by
  unfold releasedLeaving
  rw [if_pos active]
  exact releasedInOrder_idle h s

theorem releasedLeaving_other {a : StationId} {st : StationState} {src : Source}
    (h : ∀ b : ButtonId, src = .station a b → st.state ≠ .active ∨ st.keyMap.getLsbD b.val = false) (s : State) :
    (releasedLeaving a st s).tracker src = s.tracker src := by
  unfold releasedLeaving
  split
  · next active => exact releasedInOrder_other (fun b e => (h b e).resolve_left (not_not_intro active)) s
  · rfl

/-! ## The transition that waited -/

theorem deferredTransition_eq (a : StationId) (s : State) : deferredTransition a s =
    reevaluate (s.settings.stations.get a).homeZone (recorded a
      ((s.stations.get a).written (s.settings.stations.get a)) (releasedLeaving a (s.stations.get a) s)) := by
  have left := releasedLeaving_overrides a (s.stations.get a) s
  have record : ({ (releasedLeaving a (s.stations.get a) s).stations.get a with
      keyMap := 0, baselinePending := false, misses := 0, overrides := Table.replicate 8 none, uncounted := false,
      state := writtenState ((releasedLeaving a (s.stations.get a) s).settings.stations.get a) } : StationState) =
      (s.stations.get a).written (s.settings.stations.get a) := by
    rw [left.here, left.settings]
    rfl
  rw [← record, ← reevaluateWhere_single]
  rfl

/-- What a turn that ends with the transition that waited leaves behind (R23, R24, R39, R40). -/
structure EndsDeferred (a : StationId) (s t : State) (counted : StationState) : Prop where
  ends : t = serve (turnEnded a (reevaluate (s.settings.stations.get a).homeZone (recorded a
    (counted.written (s.settings.stations.get a)) (releasedLeaving a (s.stations.get a) (s.setStation a counted)))))

theorem EndsDeferred.of_transition {a : StationId} {s : State} {counted : StationState}
    (state : counted.state = (s.stations.get a).state) (keyMap : counted.keyMap = (s.stations.get a).keyMap) :
    EndsDeferred a s (serve (turnEnded a (deferredTransition a (s.setStation a counted)))) counted := by
  have leaving (u : State) : releasedLeaving a counted u = releasedLeaving a (s.stations.get a) u := by
    unfold releasedLeaving
    rw [state, keyMap]
  refine ⟨?_⟩
  rw [deferredTransition_eq, State.setStation_stations, Table.get_set_self, leaving]
  rfl

theorem EndsDeferred.fields {a : StationId} {s t : State} {counted : StationState} (h : EndsDeferred a s t counted) :
    t.stations = s.stations.set a (counted.written (s.settings.stations.get a)) ∧
    (∀ b : ButtonId, (s.stations.get a).state = .active → (s.stations.get a).keyMap.getLsbD b.val = true →
      (t.tracker (.station a b)).state = .idle) ∧
    (∀ src, (∀ b : ButtonId, src = .station a b →
        (s.stations.get a).state ≠ .active ∨ (s.stations.get a).keyMap.getLsbD b.val = false) →
      t.tracker src = s.tracker src) ∧
    ((t.zones.get (s.settings.stations.get a).homeZone).state = .held ↔
      called t (s.settings.stations.get a).homeZone = true) ∧
    t.turn = (nextServed a t).map (newTurn t) := by
  have left := releasedLeaving_overrides a (s.stations.get a) (s.setStation a counted)
  obtain ⟨stationsR, trackersR, -⟩ := recorded_fields a (counted.written (s.settings.stations.get a))
    (releasedLeaving a (s.stations.get a) (s.setStation a counted))
  obtain ⟨stationsZ, trackersZ⟩ := reevaluate_fields (s.settings.stations.get a).homeZone
    (recorded a (counted.written (s.settings.stations.get a))
      (releasedLeaving a (s.stations.get a) (s.setStation a counted)))
  refine ⟨?_, fun b active held => ?_, fun src apart => ?_, ?_, ?_⟩
  · rw [h.ends, turnEnded_stations, stationsZ, stationsR, left.set, State.setStation_stations, Table.set_set]
  · rw [h.ends, turnEnded_tracker, trackersZ, trackersR]
    exact releasedLeaving_idle active held _
  · rw [h.ends, turnEnded_tracker, trackersZ, trackersR]
    exact releasedLeaving_other apart _
  · rw [h.ends, turnEnded_zones, turnEnded_called]
    exact reevaluate_held_iff _ _
  · rw [h.ends]
    exact turnEnded_turn _ _

/-! ## The commands of a turn -/

theorem badReply_next {s : State} {tn : Turn} {r : BusReply} (running : s.power = .running) (h : openTurn s = some tn)
    (bad : badFor tn r = true) : exec (.badReply r) s = .next (serve (failTurn tn true s)) := by
  show execBadReply r s = _
  unfold execBadReply execBadReplyBy eventIf
  rw [whenRunning_of_running running]
  simp [h, bad]
  rfl

theorem replyWindowClose_next {s : State} {tn : Turn} (running : s.power = .running) (h : openTurn s = some tn) :
    exec .replyWindowClose s = .next (serve (failTurn tn false s)) := by
  show execReplyWindowClose s = _
  unfold execReplyWindowClose execReplyWindowCloseBy eventIf
  rw [whenRunning_of_running running]
  simp [h]
  rfl

theorem stationGoesMissing_next {s : State} {tn : Turn} {r : Option BusReply} (running : s.power = .running)
    (h : openTurn s = some tn) (third : thirdMiss tn s = true) (bad : ∀ x, r = some x → badFor tn x = true) :
    exec (.stationGoesMissing r) s = .next (serve (failTurn tn r.isSome s)) := by
  show execStationGoesMissing r s = _
  unfold execStationGoesMissing execStationGoesMissingBy eventIf
  rw [whenRunning_of_running running]
  cases r with
  | none =>
    simp only [h, third]
    rfl
  | some x =>
    simp only [h, third, bad x rfl]
    rfl

theorem failTurn_deferred {tn : Turn} {bad : Bool} {s : State} (deferred : tn.deferred = true) : failTurn tn bad s =
    turnEnded tn.address (deferredTransition tn.address
      (s.setStation tn.address ((s.stations.get tn.address).failed bad))) := by
  unfold failTurn failTurnBy
  dsimp only
  rw [if_pos deferred]
  rfl

theorem failTurn_ident {tn : Turn} {bad : Bool} {s : State} (deferred : tn.deferred = false) (ident : tn.request = .ident) :
    failTurn tn bad s =
      turnEnded tn.address (s.setStation tn.address ((s.stations.get tn.address).failed bad)) := by
  unfold failTurn failTurnBy
  dsimp only
  rw [if_neg (by simp [deferred]), ident]
  rfl

theorem thirdMiss_poll {tn : Turn} {p : Table Pattern 8} {s : State} (deferred : tn.deferred = false)
    (poll : tn.request = .poll p) : thirdMiss tn s = decide (3 ≤ (s.stations.get tn.address).misses + 1) := by
  unfold thirdMiss
  rw [poll]
  simp [deferred]

/-- The tally does not touch the miss count, so it is the third miss before it and after. -/
theorem thirdMiss_failed {tn : Turn} {p : Table Pattern 8} {bad : Bool} {s : State} (deferred : tn.deferred = false)
    (poll : tn.request = .poll p) : thirdMiss tn (countFailure tn.address bad s) =
      decide (3 ≤ (s.stations.get tn.address).misses + 1) := by
  rw [thirdMiss_poll deferred poll, countFailure_eq, State.setStation_stations, Table.get_set_self,
    (failed_fields _ _).2.2]

theorem failTurn_poll {tn : Turn} {p : Table Pattern 8} {bad : Bool} {s : State} (deferred : tn.deferred = false)
    (poll : tn.request = .poll p) (few : (s.stations.get tn.address).misses + 1 < 3) : failTurn tn bad s =
      turnEnded tn.address (s.setStation tn.address
        { (s.stations.get tn.address).failed bad with misses := (s.stations.get tn.address).misses + 1 }) := by
  have notThird : thirdMiss tn (countFailure tn.address bad s) = false := by
    rw [thirdMiss_failed deferred poll]
    simp
    omega
  unfold failTurn failTurnBy
  dsimp only
  rw [if_neg (by simp [deferred]), poll]
  dsimp only
  rw [notThird, if_neg (by simp), countFailure_eq, setStation_setStation, State.setStation_stations, Table.get_set_self,
    (failed_fields _ _).2.2]
  rfl

theorem failTurn_missing {tn : Turn} {p : Table Pattern 8} {bad : Bool} {s : State} (deferred : tn.deferred = false)
    (poll : tn.request = .poll p) (third : 3 ≤ (s.stations.get tn.address).misses + 1) : failTurn tn bad s =
      turnEnded tn.address (goMissing tn.address
        (s.setStation tn.address ((s.stations.get tn.address).failed bad))) := by
  have isThird : thirdMiss tn (countFailure tn.address bad s) = true := by
    rw [thirdMiss_failed deferred poll]
    exact decide_eq_true third
  unfold failTurn failTurnBy
  dsimp only
  rw [if_neg (by simp [deferred]), poll]
  dsimp only
  rw [isThird, if_pos rfl]
  rfl

theorem stateTurn_deferred {tn : Turn} {m : BitVec 8} {s : State} (deferred : tn.deferred = true) :
    stateTurn tn m s = turnEnded tn.address (deferredTransition tn.address s) := by
  unfold stateTurn
  dsimp only
  rw [if_pos deferred]
  rfl

theorem identTurn_deferred {tn : Turn} {c : Byte} {n : Nat} {s : State} (deferred : tn.deferred = true) :
    identTurn tn c n s = turnEnded tn.address (deferredTransition tn.address s) := by
  unfold identTurn identTurnBy
  dsimp only
  rw [if_pos deferred]
  rfl

/-- Settles O16: a failure counts and ends the turn, and a turn deferred ends with the one transition whatever its outcome. -/
theorem failedAndDeferredTurnsEnd : Obligations.FailedAndDeferredTurnsEnd := by
  refine ⟨?_, ?_⟩
  · intro tn r s a st misses running turn opened undeferred few
    have isOpen := openTurn_of_window turn opened
    have failed (bad : Bool) : failTurn tn bad s = turnEnded a (s.setStation a { st.failed bad with misses := misses }) := by
      cases request : tn.request with
      | ident =>
        rw [failTurn_ident undeferred request]
        simp only [misses, request]
        rw [← (failed_fields st bad).2.2]
      | poll p =>
        rw [failTurn_poll undeferred request (few p request)]
        simp only [misses, request]
        rfl
    refine ⟨fun bad => ⟨_, badReply_next running isOpen bad, ?_, ?_, fun src => ?_, ?_, ?_⟩,
      ⟨_, replyWindowClose_next running isOpen, ?_, ?_, fun src => ?_, ?_, ?_⟩⟩ <;> rw [failed]
    · rfl
    · exact turnEnded_stations _ _
    · exact turnEnded_tracker _ _ _
    · exact turnEnded_zones _ _
    · exact turnEnded_turn _ _
    · rfl
    · exact turnEnded_stations _ _
    · exact turnEnded_tracker _ _ _
    · exact turnEnded_zones _ _
    · exact turnEnded_turn _ _
  · intro tn r s a st cs written ends running turn opened deferred
    have isOpen := openTurn_of_window turn opened
    have ended {c : Instr} {u : State} {counted : StationState} (next : exec c s = .next u)
        (h : EndsDeferred a s u counted) : ends c counted := ⟨u, next, h.ends, h.fields⟩
    have kept : EndsDeferred a s (serve (turnEnded a (deferredTransition a s))) st := by
      have := EndsDeferred.of_transition (a := a) (s := s) (counted := st) rfl rfl
      rwa [setStation_self] at this
    have failed (bad : Bool) : EndsDeferred a s (serve (failTurn tn bad s)) (st.failed bad) := by
      rw [failTurn_deferred deferred]
      exact .of_transition (failed_fields _ _).1 (failed_fields _ _).2.1
    refine ⟨fun p poll good => ?_, fun ident good => ?_, fun bad => ended (badReply_next running isOpen bad) (failed true),
      ended (replyWindowClose_next running isOpen) (failed false)⟩
    · have good : (goodState tn.address r).isSome = true := by simpa [badFor, poll] using good
      obtain ⟨m, hm⟩ := Option.isSome_iff_exists.mp good
      refine ended (stateReply_next running isOpen poll hm) ?_
      rw [stateTurn_deferred deferred]
      exact kept
    · have good : (goodIdent tn.address r).isSome = true := by simpa [badFor, ident] using good
      obtain ⟨⟨c, n⟩, hm⟩ := Option.isSome_iff_exists.mp good
      refine ended (identReply_next running isOpen ident hm) ?_
      rw [identTurn_deferred deferred]
      exact kept

/-! ## The third miss -/

theorem goMissing_eq (a : StationId) (s : State) : goMissing a s =
    let released := releasedInOrder a (s.stations.get a).keyMap s
    reevaluate (s.settings.stations.get a).homeZone (recorded a
      { released.stations.get a with keyMap := 0, baselinePending := false, misses := 3, state := .missing } released) := by
  have settings : (enterStation a
      { (releasedInOrder a (s.stations.get a).keyMap s).stations.get a with
        keyMap := 0, baselinePending := false, misses := 3, state := .missing }
      (releasedInOrder a (s.stations.get a).keyMap s)).settings.stations = s.settings.stations := by
    rw [(enterStation_frame _ _ _).zones.core.settings]
    exact (releasedInOrder_overrides _ _ _).settings
  unfold goMissing goMissingBy
  dsimp only
  rw [← settings]
  rfl

/-- Settles O17: the record of a missing station is that of the state its releases left, whose gestures move no other
station. -/
theorem thirdMissMakesTheStationMissing : Obligations.ThirdMissMakesTheStationMissing := by
  intro tn p r s a st running turn opened poll undeferred third bad
  have isOpen := openTurn_of_window turn opened
  have isThird : thirdMiss tn s = true := by
    rw [thirdMiss_poll undeferred poll]
    exact decide_eq_true third
  generalize hc : s.setStation a (st.failed r.isSome) = counted
  generalize hr : releasedInOrder a st.keyMap counted = released
  have keyMap : (counted.stations.get a).keyMap = st.keyMap := by
    rw [← hc, State.setStation_stations, Table.get_set_self]
    exact (failed_fields _ _).2.1
  have left : OnlyOverrides a counted released := hr ▸ releasedInOrder_overrides _ _ _
  generalize hv : ({ released.stations.get a with
    keyMap := 0, baselinePending := false, misses := 3, state := .missing } : StationState) = v
  have step : failTurn tn r.isSome s = turnEnded a (reevaluate (s.settings.stations.get a).homeZone (recorded a v released)) := by
    rw [failTurn_missing undeferred poll third, show s.setStation tn.address _ = counted from hc, goMissing_eq,
      show (counted.stations.get tn.address).keyMap = st.keyMap from keyMap]
    dsimp only
    rw [show releasedInOrder tn.address st.keyMap counted = released from hr, ← hv, ← hc]
    rfl
  obtain ⟨stationsR, trackersR, -⟩ := recorded_fields a v released
  obtain ⟨stationsZ, trackersZ⟩ := reevaluate_fields (s.settings.stations.get a).homeZone (recorded a v released)
  have stations : (serve (failTurn tn r.isSome s)).stations = s.stations.set a v := by
    rw [step, turnEnded_stations, stationsZ, stationsR, left.set, ← hc, State.setStation_stations, Table.set_set]
  have here : (serve (failTurn tn r.isSome s)).stations.get a = v := by rw [stations, Table.get_set_self]
  have tallies : v.badReplies = (st.failed r.isSome).badReplies ∧ v.noReplies = (st.failed r.isSome).noReplies := by
    rw [← hv, left.here, ← hc, State.setStation_stations, Table.get_set_self]
    exact ⟨rfl, rfl⟩
  refine ⟨_, stationGoesMissing_next running isOpen isThird bad, ?_, ⟨released, ?_, ?_⟩, ?_, ?_, ?_, ?_, ?_, ?_,
    fun a' ne => ?_, fun b held => ?_, fun src apart => ?_, ?_⟩
  · cases r with
    | none => exact replyWindowClose_next running isOpen
    | some x => exact badReply_next running isOpen (bad x rfl)
  · rw [← hr, ← hc]
    rfl
  · rw [step, ← hv]
  · rw [here, ← hv]
  · rw [here, ← hv]
  · rw [here, ← hv]
  · rw [here, ← hv]
  · rw [here, tallies.1]
    cases r <;> rfl
  · rw [here, tallies.2]
    cases r <;> rfl
  · rw [stations, Table.get_set_ne _ _ (Ne.symm ne)]
  · rw [step, turnEnded_tracker, trackersZ, trackersR, ← hr]
    exact releasedInOrder_idle held _
  · rw [step, turnEnded_tracker, trackersZ, trackersR, ← hr, releasedInOrder_other apart, ← hc]
    rfl
  · rw [step, turnEnded_zones, turnEnded_called]
    exact reevaluate_held_iff _ _

end Sys2Proof.Machine

/-! PROOFS. A good STATE reply: the baseline, and the comparison button by button (R28, R31, R32). -/

namespace Sys2Proof.Machine

variable {tn : Turn} {m : BitVec 8} {s : State}

/-! ## The baseline -/

/-- A good key map that is a baseline, and what it leaves (R31). -/
theorem stateTurn_baseline (undeferred : tn.deferred = false) (pending : (s.stations.get tn.address).baselinePending = true) :
    stateTurn tn m s = turnEnded tn.address
      (((List.finRange 8).filter fun b : ButtonId =>
          (m &&& buttonsUpTo (s.stations.get tn.address).reportedButtons).getLsbD b.val).foldl
        (fun v b => baseline (.station tn.address b) v)
        (s.setStation tn.address { s.stations.get tn.address with
          misses := 0, baselinePending := false,
          keyMap := m &&& buttonsUpTo (s.stations.get tn.address).reportedButtons })) := by
  unfold stateTurn
  dsimp only
  rw [if_neg (by simp [undeferred]), if_pos pending]
  rfl

/-- Baselines reach nothing but the trackers (R48). -/
structure OnlyTrackers (s t : State) : Prop where
  stations : t.stations = s.stations
  circuits : t.circuits = s.circuits
  zones : t.zones = s.zones
  flags : t.flags = s.flags

theorem baselines_fields (f : ButtonId → Source) (l : List ButtonId) (s : State) :
    OnlyTrackers s (l.foldl (fun v b => baseline (f b) v) s) := by
  refine foldl_kept (P := OnlyTrackers s) (fun u b h => ?_) l s ⟨rfl, rfl, rfl, rfl⟩
  unfold baseline
  split
  · exact ⟨by simpa using h.stations, by simpa using h.circuits, by simpa using h.zones, by simpa using h.flags⟩
  all_goals exact h

theorem baseline_self (src : Source) (s : State) :
    (baseline src s).tracker src = if (s.tracker src).state = .idle then Tracker.latent else s.tracker src := by
  split
  · next idle => rw [baseline_latent _ _ idle, State.tracker_setTracker_self]
  · next busy => rw [baseline_ignored _ _ busy]

/-! ## The comparison -/

theorem compareButton_other {a : StationId} {old new : BitVec 8} {u : State} {b : ButtonId} {src : Source}
    (h : src ≠ .station a b) : (compareButton a old new u b).tracker src = u.tracker src := by
  unfold compareButton
  split
  · rfl
  · split
    · exact press_other u h
    · exact release_other u h

theorem compareButton_overrides (a : StationId) (old new : BitVec 8) (u : State) (b : ButtonId) :
    OnlyOverrides a u (compareButton a old new u b) := by
  unfold compareButton
  split
  · exact .refl a u
  · split
    · exact press_overrides a b u
    · exact release_overrides a b u

/-- A good key map that is compared with the last one (R32). -/
theorem stateTurn_compare (undeferred : tn.deferred = false)
    (settled : (s.stations.get tn.address).baselinePending = false) :
    stateTurn tn m s = turnEnded tn.address
      (let new := m &&& buttonsUpTo (s.stations.get tn.address).reportedButtons
      let u := ((List.finRange 8).filter fun b => decide (b.val < (s.stations.get tn.address).reportedButtons)).foldl
        (compareButton tn.address (s.stations.get tn.address).keyMap new)
        (s.setStation tn.address { s.stations.get tn.address with misses := 0 })
      u.setStation tn.address { u.stations.get tn.address with keyMap := new }) := by
  unfold stateTurn
  dsimp only
  rw [if_neg (by simp [undeferred]), if_neg (by simp [settled])]
  rfl

theorem held_iff {p : ButtonId → Bool} {b : ButtonId} : b ∈ (List.finRange 8).filter p ↔ p b = true := by simp

/-- Settles O15: a pass over the buttons in ascending order, each of which reaches its own tracker once at most. -/
theorem keyMapsBecomePressesAndReleases : Obligations.KeyMapsBecomePressesAndReleases := by
  intro tn p r m s a st new running turn opened poll undeferred address kind data check
  have next := stateReply_next running (openTurn_of_window turn opened) poll (goodState_of address kind data check)
  rcases Bool.eq_false_or_eq_true st.baselinePending with pending | pending
  · have step := stateTurn_baseline (tn := tn) (m := m) (s := s) undeferred pending
    generalize hl : ((List.finRange 8).filter fun b : ButtonId =>
      (m &&& buttonsUpTo (s.stations.get tn.address).reportedButtons).getLsbD b.val) = l at step
    generalize hk : s.setStation tn.address { s.stations.get tn.address with
      misses := 0, baselinePending := false,
      keyMap := m &&& buttonsUpTo (s.stations.get tn.address).reportedButtons } = known at step
    have only := baselines_fields (fun b => .station tn.address b) l known
    obtain ⟨others, reached⟩ := foldl_buttons_tracker (a := tn.address)
      (f := fun v b => baseline (.station tn.address b) v) (fun u b src h => baseline_other u h) l
      (hl ▸ held_nodup _) known
    have trackers (src : Source) : known.tracker src = s.tracker src := by rw [← hk]; rfl
    have stations : known.stations = s.stations.set a { st with misses := 0, baselinePending := false, keyMap := new } := by
      rw [← hk]
      rfl
    have here : (serve (stateTurn tn m s)).stations = s.stations.set a
        { st with misses := 0, baselinePending := false, keyMap := new } := by
      rw [step, turnEnded_stations, only.stations, stations]
    refine ⟨_, next, ?_, fun _ => ?_, fun h => absurd (pending.symm.trans h) (by simp), ?_, ?_, ?_, ?_, fun a' ne => ?_,
      fun src apart => ?_,
      fun _ => ⟨?_, ?_, ?_, fun b => ?_⟩, fun h => absurd (pending.symm.trans h) (by simp)⟩
    · rw [step]
      exact turnEnded_turn _ _
    · rw [step, ← hl, ← hk]
    · rw [here, Table.get_set_self]
    · rw [here, Table.get_set_self]
    · rw [here, Table.get_set_self]
    · rw [here, Table.get_set_self]
    · rw [here, Table.get_set_ne _ _ (Ne.symm ne)]
    · rw [step, turnEnded_tracker, others src fun b _ => apart b, trackers]
    · rw [step, serve_circuits]
      exact only.circuits.trans (by rw [← hk]; rfl)
    · rw [step, turnEnded_zones]
      exact only.zones.trans (by rw [← hk]; rfl)
    · rw [step, serve_flags]
      exact only.flags.trans (by rw [← hk]; rfl)
    · rw [step, turnEnded_tracker]
      by_cases held : new.getLsbD b.val = true
      · obtain ⟨u, old, e⟩ := reached b (hl ▸ held_iff.mpr held)
        rw [e, baseline_self, old, trackers]
        simp only [held, true_and]
        rfl
      · rw [others _ fun c hc e => held ?_, trackers, if_neg fun h => held h.1]
        cases e
        exact held_iff.mp (hl ▸ hc)
  · have step := stateTurn_compare (tn := tn) (m := m) (s := s) undeferred pending
    dsimp only at step
    generalize hl : ((List.finRange 8).filter fun b : ButtonId =>
      decide (b.val < (s.stations.get tn.address).reportedButtons)) = l at step
    generalize hk : s.setStation tn.address { s.stations.get tn.address with misses := 0 } = known at step
    obtain ⟨others, reached⟩ := foldl_buttons_tracker (a := tn.address) (f := compareButton a st.keyMap new)
      (fun u b src h => compareButton_other h) l (hl ▸ held_nodup _) known
    have left := foldl_overrides (compareButton_overrides a st.keyMap new) l known
    generalize hu : l.foldl (compareButton a st.keyMap new) known = u at others reached left
    have step : stateTurn tn m s = turnEnded a (u.setStation a { u.stations.get a with keyMap := new }) := by
      rw [step, ← hu]
    have trackers (src : Source) : known.tracker src = s.tracker src := by rw [← hk]; rfl
    have kept : known.stations.get a = { st with misses := 0 } := by rw [← hk, State.setStation_stations, Table.get_set_self]
    have tracker (src : Source) : (serve (stateTurn tn m s)).tracker src = u.tracker src := by
      rw [step, turnEnded_tracker]
      rfl
    have here : (serve (stateTurn tn m s)).stations.get a = { u.stations.get a with keyMap := new } := by
      rw [step, turnEnded_stations, State.setStation_stations, Table.get_set_self]
    refine ⟨_, next, ?_, fun h => absurd (pending.symm.trans h) (by simp), fun _ => ⟨u, ?_, ?_⟩, ?_, ?_, ?_, ?_,
      fun a' ne => ?_, fun src apart => ?_, fun h => absurd (pending.symm.trans h) (by simp), fun _ b => ⟨fun above => ?_, fun below same => ?_, fun below up down => ?_,
        fun below down up => ⟨fun rest => ?_, fun busy => ?_⟩⟩⟩
    · rw [step]
      exact turnEnded_turn _ _
    · rw [← hu, ← hl, ← hk]
      rfl
    · rw [step]
    · rw [here, left.here, kept]
    · rw [here]
    · rw [here, left.here, kept]
      exact pending
    · rw [here, left.here, kept]
    · rw [step, turnEnded_stations, State.setStation_stations, Table.get_set_ne _ _ (Ne.symm ne), left.others a' ne, ← hk,
        State.setStation_stations]
      exact Table.get_set_ne _ _ (Ne.symm ne)
    · rw [tracker, others src fun b _ => apart b, trackers]
    · rw [tracker, others _ fun c hc e => ?_, trackers]
      cases e
      exact absurd (of_decide_eq_true (held_iff.mp (hl ▸ hc))) (Nat.not_lt.mpr above)
    all_goals
      obtain ⟨v, old, e⟩ := reached b (hl ▸ held_iff.mpr (decide_eq_true below))
      rw [tracker, e]
      unfold compareButton
    · rw [if_pos same.symm, old, trackers]
    · rw [if_neg (by rw [up, down]; simp), if_neg (by rw [up]; simp)]
      exact release_idle _ _
    · rw [if_neg (by rw [up, down]; simp), if_pos down, press_starts _ _ (by rw [old, trackers]; exact rest)]
      rfl
    · rw [if_neg (by rw [up, down]; simp), if_pos down, press_ignored _ _ (by rw [old, trackers]; exact busy), old, trackers]

end Sys2Proof.Machine

/-! PROOFS. The wire forms read back: each field, then each record that a GET writes and a PUT reads (R60, R184, R188). -/

namespace Sys2Proof.Machine

/-! ## Bytes and words of a payload (R188) -/

@[simp] theorem byteAt_cons_zero (b : Byte) (l : List Byte) : byteAt (b :: l) 0 = b.toNat := rfl

@[simp] theorem byteAt_cons_succ (b : Byte) (l : List Byte) (i : Nat) : byteAt (b :: l) (i + 1) = byteAt l i := rfl

@[simp] theorem wordAt_cons_zero (a b : Byte) (l : List Byte) : wordAt (a :: b :: l) 0 = a.toNat + 256 * b.toNat := rfl

@[simp] theorem wordAt_cons_succ (b : Byte) (l : List Byte) (i : Nat) : wordAt (b :: l) (i + 1) = wordAt l i := rfl

theorem byteAt_append_right {l : List Byte} {i : Nat} (h : l.length ≤ i) (r : List Byte) :
    byteAt (l ++ r) i = byteAt r (i - l.length) := by
  simp only [byteAt, List.getD_append_right _ _ _ _ h]

theorem wordAt_append_right {l : List Byte} {i : Nat} (h : l.length ≤ i) (r : List Byte) :
    wordAt (l ++ r) i = wordAt r (i - l.length) := by
  rw [wordAt, wordAt, byteAt_append_right h, byteAt_append_right (by omega), Nat.sub_add_comm h]

/-- A number below 65536 is read back from its two bytes. -/
theorem word_toNat {n : Nat} (h : n < 65536) : (byteOf n).toNat + 256 * (byteOf (n / 256)).toNat = n := by
  simp only [byteOf, BitVec.toNat_ofNat]
  omega

/-! ## Numbers, on/off values and bounds -/

@[simp] theorem idOf_numberOf {n : Nat} (i : Fin n) : idOf n (numberOf i) = some i := by
  simp [idOf, numberOf, i.isLt]

/-- One byte holds the number of anything of which there are fewer than 256. -/
theorem byteOf_numberOf_toNat {n : Nat} (few : n < 256) (i : Fin n) : (byteOf (numberOf i)).toNat = numberOf i :=
  byteOf_toNat (by have := i.isLt; unfold numberOf; omega)

theorem idOf_byteOf {n : Nat} (few : n < 256) (i : Fin n) : idOf n (byteOf (numberOf i)).toNat = some i := by
  rw [byteOf_numberOf_toNat few, idOf_numberOf]

@[simp] theorem boolOf_boolByte (b : Bool) : boolOf (boolByte b).toNat = some b := by cases b <;> rfl

theorem within_of_le {low high n : Nat} (above : low ≤ n) (below : n ≤ high) : within low high n = some n :=
  if_pos ⟨above, below⟩

/-! ## Codes -/

@[simp] theorem InputFunction.ofCode_code (f : InputFunction) : ofCode (byteOf f.code).toNat = some f := by cases f <;> rfl

@[simp] theorem GestureKind.ofCode_code (k : GestureKind) : ofCode (byteOf k.code).toNat = some k := by cases k <;> rfl

@[simp] theorem Sense.ofCode_code (x : Sense) : ofCode (byteOf x.code).toNat = some x := by cases x <;> rfl

@[simp] theorem NoiseWidth.ofCode_code (w : NoiseWidth) : ofCode (byteOf w.code).toNat = some w := by cases w <;> rfl

@[simp] theorem BindingClass.ofCode_code (c : BindingClass) : ofCode (byteOf c.code).toNat = some c := by cases c <;> rfl

@[simp] theorem Trigger.ofCode_code (t : Trigger) : ofCode (byteOf t.code).toNat = some t := by cases t <;> rfl

@[simp] theorem Law.ofCode_code (l : Law) : ofCode (byteOf l.code).toNat = some l := by cases l <;> rfl

@[simp] theorem ReleaseMode.ofCode_code (m : ReleaseMode) : ofCode (byteOf m.code).toNat = some m := by cases m <;> rfl

@[simp] theorem Nominal.ofCode_code (n : Nominal) : ofCode (byteOf n.code).toNat = some n := by cases n <;> rfl

/-! ## Contact inputs (R1) -/

theorem inputOf_inputBytes {i : InputId} {c : InputSettings} (ok : c.ok i = true) : inputOf (inputBytes i c) = some (i, c) := by
  simp only [InputSettings.ok, Bool.and_eq_true, decide_eq_true_eq] at ok
  obtain ⟨⟨low, high⟩, allowed⟩ := ok
  have hold : within 3 30 (byteOf c.holdTime).toNat = some c.holdTime := by
    rw [byteOf_toNat (by omega), within_of_le low high]
  simp [inputOf, inputBytes, idOf_byteOf, hold, allowed]

/-! ## Ladder channels (R10) -/

theorem windowBytes_read {w : Window} (low : w.low ≤ 1023) (high : w.high ≤ 1023) (l : List Byte) :
    wordAt (windowBytes w ++ l) 0 = w.low ∧ wordAt (windowBytes w ++ l) 2 = w.high :=
  ⟨word_toNat (by omega), word_toNat (by omega)⟩

/-- Each window takes four bytes, so the one numbered `k` begins behind the `k` before it. -/
theorem windows_read {ws : List Window} (range : ∀ w ∈ ws, w.low ≤ 1023 ∧ w.high ≤ 1023) (tail : List Byte) (k : Nat)
    (h : k < ws.length) : wordAt (ws.flatMap windowBytes ++ tail) (4 * k) = ws[k].low ∧
      wordAt (ws.flatMap windowBytes ++ tail) (4 * k + 2) = ws[k].high := by
  induction ws generalizing k with
  | nil => cases h
  | cons w ws ih =>
    rw [List.flatMap_cons, List.append_assoc]
    obtain ⟨low, high⟩ := range w List.mem_cons_self
    cases k with
    | zero => exact windowBytes_read low high _
    | succ k => exact ih (fun v hv => range v (List.mem_cons_of_mem _ hv)) k (Nat.lt_of_succ_lt_succ h)

theorem Table.ofFn_get {α : Type} {n : Nat} (t : Table α n) : Table.ofFn t.get = t :=
  Table.ext_get fun _ => Table.get_ofFn _ _

theorem windowBytes_length (ws : List Window) : (ws.flatMap windowBytes).length = 4 * ws.length := by
  induction ws with
  | nil => rfl
  | cons w ws ih => simp [windowBytes, wordOf, ih]; omega

theorem ladderOf_ladderBytes {ch : ChannelId} {c : LadderSettings} (ok : c.ok = true) :
    ladderOf (ladderBytes ch c) = some (ch, c) := by
  simp only [LadderSettings.ok, Bool.and_eq_true, decide_eq_true_eq] at ok
  obtain ⟨⟨⟨⟨⟨⟨⟨b1, b6⟩, range⟩, apart⟩, s2⟩, s8⟩, h3⟩, h30⟩ := ok
  have bounds : ∀ w ∈ c.windows.items, w.low ≤ 1023 ∧ w.high ≤ 1023 := fun w hw => by
    have := List.all_eq_true.mp range w hw
    simp only [Bool.and_eq_true, decide_eq_true_eq] at this
    exact this.1
  have windows : windowsAt (ladderBytes ch c) = c.windows := by
    refine (congrArg Table.ofFn (funext fun w => ?_)).trans (Table.ofFn_get c.windows)
    have at_ := windows_read bounds [byteOf c.stability, byteOf (numberOf c.homeZone), byteOf c.holdTime, boolByte c.report]
      w.val (by rw [c.windows.size]; exact w.isLt)
    rw [Nat.add_comm 2, Nat.add_comm 4]
    simp only [ladderBytes, List.cons_append, List.nil_append, wordAt_cons_succ, at_]
    rfl
  have behind (k : Nat) : byteAt (ladderBytes ch c) (k + 30) =
      byteAt [byteOf c.stability, byteOf (numberOf c.homeZone), byteOf c.holdTime, boolByte c.report] k := by
    have size : (c.windows.items.flatMap windowBytes).length = 28 := by rw [windowBytes_length, c.windows.size]
    simp only [ladderBytes, List.cons_append, List.nil_append, byteAt_cons_succ]
    rw [byteAt_append_right (by omega), size, Nat.add_sub_cancel]
  have count : within 1 6 (byteOf c.buttonCount).toNat = some c.buttonCount := by
    rw [byteOf_toNat (by omega), within_of_le b1 b6]
  have stability : within 2 8 (byteOf c.stability).toNat = some c.stability := by
    rw [byteOf_toNat (by omega), within_of_le s2 s8]
  have hold : within 3 30 (byteOf c.holdTime).toNat = some c.holdTime := by
    rw [byteOf_toNat (by omega), within_of_le h3 h30]
  have first : byteAt (ladderBytes ch c) 0 = (byteOf (numberOf ch)).toNat := rfl
  have second : byteAt (ladderBytes ch c) 1 = (byteOf c.buttonCount).toNat := rfl
  unfold ladderOf
  rw [windows, first, second, behind 0, behind 1, behind 2, behind 3]
  simp [idOf_byteOf, count, stability, hold, range, apart]

/-! ## Stations (R22) -/

/-- An indicator is read back from its two bytes. -/
theorem indicatorOf_field (x : Indicator) : ∃ m a : Byte, indicatorField x = [m, a] ∧ indicatorOf m.toNat a.toNat = some x := by
  cases x with
  | off => exact ⟨_, _, rfl, rfl⟩
  | on => exact ⟨_, _, rfl, rfl⟩
  | scene s => exact ⟨_, _, rfl, by simp [indicatorOf, idOf_byteOf]⟩
  | zone z => exact ⟨_, _, rfl, by simp [indicatorOf, idOf_byteOf]⟩
  | flag f => exact ⟨_, _, rfl, by simp [indicatorOf, idOf_byteOf]⟩

/-- Each indicator takes two bytes, so that of the button numbered `k` begins behind the `k` before it. -/
theorem indicators_read (l : List Indicator) (k : Nat) (h : k < l.length) :
    indicatorOf (byteAt (l.flatMap indicatorField) (2 * k)) (byteAt (l.flatMap indicatorField) (2 * k + 1)) = some l[k] := by
  induction l generalizing k with
  | nil => cases h
  | cons x l ih =>
    obtain ⟨m, a, field, read⟩ := indicatorOf_field x
    rw [List.flatMap_cons, field]
    cases k with
    | zero => exact read
    | succ k => exact ih k (Nat.lt_of_succ_lt_succ h)

theorem indicatorsAt_stationBytes (a : StationId) (c : StationSettings) :
    indicatorsAt (stationBytes a c) = some c.indicators := by
  have read (b : ButtonId) : indicatorOf (byteAt (stationBytes a c) (2 * b.val + 6)) (byteAt (stationBytes a c) (2 * b.val + 7)) =
      some (c.indicators.get b) := indicators_read c.indicators.items b.val (by rw [c.indicators.size]; exact b.isLt)
  generalize stationBytes a c = p at read ⊢
  unfold indicatorsAt
  rw [show indicatorOf (byteAt p 6) (byteAt p 7) = _ from read 0]
  rw [show indicatorOf (byteAt p 8) (byteAt p 9) = _ from read 1]
  rw [show indicatorOf (byteAt p 10) (byteAt p 11) = _ from read 2]
  rw [show indicatorOf (byteAt p 12) (byteAt p 13) = _ from read 3]
  rw [show indicatorOf (byteAt p 14) (byteAt p 15) = _ from read 4]
  rw [show indicatorOf (byteAt p 16) (byteAt p 17) = _ from read 5]
  rw [show indicatorOf (byteAt p 18) (byteAt p 19) = _ from read 6]
  rw [show indicatorOf (byteAt p 20) (byteAt p 21) = _ from read 7]
  refine congrArg some (Table.ext_get fun b => ?_)
  fin_cases b <;> rfl

theorem stationOf_stationBytes {a : StationId} {c : StationSettings} (ok : c.ok = true) :
    stationOf (stationBytes a c) = some (a, c) := by
  simp only [StationSettings.ok, Bool.and_eq_true, decide_eq_true_eq] at ok
  obtain ⟨⟨⟨t1, t15⟩, h3⟩, h30⟩ := ok
  have expected : within 1 15 (byteOf c.expectedType).toNat = some c.expectedType := by
    rw [byteOf_toNat (by omega), within_of_le t1 t15]
  have hold : within 3 30 (byteOf c.holdTime).toNat = some c.holdTime := by
    rw [byteOf_toNat (by omega), within_of_le h3 h30]
  unfold stationOf
  rw [indicatorsAt_stationBytes]
  simp [stationBytes, idOf_byteOf, expected, hold]

/-! ## Bindings (R56 to R60) -/

theorem numberOf_lt {n m : Nat} (i : Fin n) (h : n < m) : numberOf i < m := by
  have := i.isLt
  unfold numberOf
  omega

/-- A source is read back from its three bytes. -/
theorem sourceOf_sourceBytes (src : Source) : ∃ k u b : Byte, sourceBytes src = [k, u, b] ∧
    sourceOf k.toNat u.toNat b.toNat = some src := by
  cases src with
  | contact i => exact ⟨_, _, _, rfl, by simp [sourceOf, idOf_byteOf]⟩
  | ladder ch b => exact ⟨_, _, _, rfl, by simp [sourceOf, idOf_byteOf]⟩
  | station a b => exact ⟨_, _, _, rfl, by simp [sourceOf, idOf_byteOf]⟩

/-- A fade field lies below 65536, and an absent one is FFFFh. -/
theorem bindingFade_getD {fade : Option Nat} (ok : fadeOk fade = true) :
    fade.getD absentFade < 65536 ∧ bindingFade (fade.getD absentFade) = some fade := by
  cases fade with
  | none => exact ⟨by decide, rfl⟩
  | some f =>
    have small : f ≤ 3000 := by simpa [fadeOk] using ok
    have given : f ≠ 0xFFFF := by omega
    exact ⟨by simp only [Option.getD_some]; omega,
      by simp [bindingFade, absentFade, given, within_of_le (Nat.zero_le f) small]⟩

section
variable {x : Action}

theorem Action.code_lt : x.fields.code < 256 := by cases x <;> simp [Action.fields]

theorem Action.target_lt : x.fields.target < 256 := by
  cases x with
  | reportOnly => exact Nat.zero_lt_succ 255
  | _ => exact numberOf_lt _ (by decide)

theorem Action.level_lt (ok : x.ok = true) : x.fields.level < 65536 := by
  cases x with
  | level c l f =>
    simp only [Action.ok, Bool.and_eq_true, decide_eq_true_eq] at ok
    exact lt_of_le_of_lt ok.1 (by decide)
  | _ => exact Nat.zero_lt_succ 65535

theorem Action.fields_fadeOk (ok : x.ok = true) : fadeOk x.fields.fade = true := by
  cases x with
  | sceneOn | sceneOff | sceneToggle | levelOff | zoneClear => exact ok
  | level => exact (Bool.and_eq_true _ _ ▸ ok).2
  | _ => rfl

/-- The fields of an action in range are read back as the action (R58). -/
theorem actionOf_fields (ok : x.ok = true) :
    actionOf x.fields.code x.fields.target x.fields.level (x.fields.fade.getD absentFade) = some x := by
  have fade := (bindingFade_getD (Action.fields_fadeOk ok)).2
  cases x with
  | level c l f =>
    simp only [Action.ok, Bool.and_eq_true, decide_eq_true_eq] at ok
    simp_all [actionOf, Action.fields, within_of_le (Nat.zero_le l) ok.1]
  | reportOnly => rfl
  | _ => simp_all [actionOf, Action.fields]

end

theorem bindingOf_bindingBytes {b : SlotId} {x : Binding} (ok : x.action.ok = true) :
    bindingOf (bindingBytes b (some x)) = some (b, x) := by
  obtain ⟨k, u, button, source, readSource⟩ := sourceOf_sourceBytes x.source
  have fade := (bindingFade_getD (Action.fields_fadeOk ok)).1
  simp [bindingOf, bindingBytes, source, readSource, wordOf, word_toNat (numberOf_lt b (show 512 < 65536 by decide)),
    idOf_byteOf, byteOf_toNat Action.code_lt, byteOf_toNat Action.target_lt, word_toNat (Action.level_lt ok), word_toNat fade,
    actionOf_fields ok]

/-! ## Names (R82, R140) -/

theorem nameBytes_length {name : List Byte} (short : name.length ≤ 12) (draw : Nat) : (nameBytes draw name).length = 13 := by
  simp [nameBytes]
  omega

/-- A name is read back whatever the free bytes behind it are. -/
theorem nameAt_nameBytes {name : List Byte} (ok : nameOk name = true) (draw : Nat) (tail : List Byte) :
    nameAt (nameBytes draw name ++ tail) 0 = some name := by
  simp only [nameOk, Bool.and_eq_true, decide_eq_true_eq] at ok
  obtain ⟨short, printable⟩ := ok
  have size : byteAt (nameBytes draw name ++ tail) 0 = name.length := by
    simp only [nameBytes, List.cons_append, byteAt_cons_zero]
    exact byteOf_toNat (by omega)
  have chars : ((nameBytes draw name ++ tail).drop (0 + 1)).take name.length = name := by
    simp only [nameBytes, List.cons_append, List.append_assoc, List.drop_succ_cons, List.drop_zero, List.take_left]
  simp only [nameAt, size, chars]
  exact if_pos ⟨short, printable⟩

/-- A field behind the first byte is read at its place in the rest. -/
theorem nameAt_cons_succ (b : Byte) (l : List Byte) (i : Nat) : nameAt (b :: l) (i + 1) = nameAt l i := rfl

/-! ## Scenes (R81 to R83) -/

theorem entriesOf_entryBytes {l : List SceneEntry} (range : ∀ e ∈ l, e.level ≤ 1000) :
    entriesOf (l.flatMap entryBytes) = some l := by
  induction l with
  | nil => rfl
  | cons e l ih =>
    have small := range e List.mem_cons_self
    simp [entryBytes, wordOf, entriesOf, idOf_byteOf, word_toNat (show e.level < 65536 by omega),
      within_of_le (Nat.zero_le _) small, ih fun e he => range e (List.mem_cons_of_mem _ he)]

theorem sceneOf_sceneBytes {draw : Nat} {sc : SceneId} {c : Scene} (ok : c.ok = true) :
    sceneOf (sceneBytes draw sc c) = some (sc, c) := by
  simp only [Scene.ok, entriesOk, Bool.and_eq_true, decide_eq_true_eq, List.all_eq_true] at ok
  obtain ⟨⟨⟨name, on⟩, off⟩, ⟨few, levels⟩, -⟩ := ok
  have size : (nameBytes draw c.name).length = 13 := nameBytes_length (by simp [nameOk] at name; exact name.1) draw
  let rest := wordOf c.onFade ++ wordOf c.offFade ++ [byteOf c.entries.length] ++ c.entries.flatMap entryBytes
  have split : sceneBytes draw sc c = byteOf (numberOf sc) :: (nameBytes draw c.name ++ rest) := by
    simp [sceneBytes, rest]
  have readName : nameAt (sceneBytes draw sc c) 1 = some c.name := by
    rw [split, nameAt_cons_succ, nameAt_nameBytes name]
  have word (k : Nat) : wordAt (sceneBytes draw sc c) (k + 14) = wordAt rest k := by
    rw [split, wordAt_cons_succ, wordAt_append_right (by omega), size, Nat.add_sub_cancel]
  have byte (k : Nat) : byteAt (sceneBytes draw sc c) (k + 14) = byteAt rest k := by
    rw [split, byteAt_cons_succ, byteAt_append_right (by omega), size, Nat.add_sub_cancel]
  have behind : (sceneBytes draw sc c).drop 19 = c.entries.flatMap entryBytes := by
    rw [split, List.drop_succ_cons, List.drop_append, List.drop_eq_nil_of_le (by omega), size]
    rfl
  have onFade : within 0 3000 (wordAt rest 0) = some c.onFade :=
    (congrArg _ (word_toNat (by omega))).trans (within_of_le (Nat.zero_le _) on)
  have offFade : within 0 3000 (wordAt rest 2) = some c.offFade :=
    (congrArg _ (word_toNat (by omega))).trans (within_of_le (Nat.zero_le _) off)
  have count : within 0 64 (byteAt rest 4) = some c.entries.length :=
    (congrArg _ (byteOf_toNat (by omega))).trans (within_of_le (Nat.zero_le _) few)
  have first : byteAt (sceneBytes draw sc c) 0 = (byteOf (numberOf sc)).toNat := rfl
  unfold sceneOf sceneCount
  rw [first, readName, word 0, word 2, byte 4, onFade, offFade, count, behind, entriesOf_entryBytes levels]
  simp [idOf_byteOf]

/-! ## Circuits (R116) -/

theorem circuitOf_circuitBytes {n : CircuitId} {c : CircuitSettings} (ok : c.ok = true) :
    circuitOf (circuitBytes n c) = some (n, c) := by
  simp only [CircuitSettings.ok, Bool.and_eq_true, decide_eq_true_eq] at ok
  obtain ⟨⟨⟨⟨⟨⟨cap, preheat⟩, rest⟩, fade⟩, on⟩, off⟩, dwell⟩ := ok
  have word {m bound : Nat} (h : m ≤ bound) (small : bound < 65536) :
      within 0 bound ((byteOf m).toNat + 256 * (byteOf (m / 256)).toNat) = some m := by
    rw [word_toNat (by omega), within_of_le (Nat.zero_le m) h]
  have minimum : within 0 50 (byteOf c.minimumDwell).toNat = some c.minimumDwell := by
    rw [byteOf_toNat (by omega), within_of_le (Nat.zero_le _) dwell]
  simp [circuitOf, circuitBytes, wordOf, idOf_byteOf, word cap (by decide), word preheat (by decide), word rest (by decide),
    word fade (by decide), word on (by decide), word off (by decide), minimum]

/-! ## Zones (R140) -/

theorem zoneOf_zoneBytes {draw : Nat} {z : ZoneId} {c : ZoneSettings} (ok : c.ok = true) :
    zoneOf (zoneBytes draw z c) = some (z, c) := by
  simp only [ZoneSettings.ok, Bool.and_eq_true, decide_eq_true_eq] at ok
  obtain ⟨⟨⟨delay, low⟩, high⟩, name⟩ := ok
  have split : zoneBytes draw z c = byteOf (numberOf z) :: byteOf c.mask.toNat :: byteOf (c.mask.toNat / 256)
      :: byteOf c.mode.code :: byteOf c.delay :: byteOf c.raiseRate :: byteOf (c.raiseRate / 256)
      :: (nameBytes draw c.name ++ []) := by simp [zoneBytes, wordOf]
  have small : c.mask.toNat < 4096 := c.mask.isLt
  have mask : maskOf ((byteOf c.mask.toNat).toNat + 256 * (byteOf (c.mask.toNat / 256)).toNat) = some c.mask := by
    rw [word_toNat (by omega), maskOf, if_pos small, BitVec.ofNat_toNat, BitVec.setWidth_eq]
  have delays : delayOf (byteOf c.delay).toNat = some c.delay := by
    have small : c.delay < 256 := lt_of_le_of_lt ((by decide : ∀ n ∈ [0, 5, 10, 30, 60, 120], n ≤ 120) _ delay) (by decide)
    rw [byteOf_toNat small, delayOf, if_pos delay]
  have rate : within 10 1000 ((byteOf c.raiseRate).toNat + 256 * (byteOf (c.raiseRate / 256)).toNat) = some c.raiseRate := by
    rw [word_toNat (by omega), within_of_le low high]
  rw [split]
  simp only [zoneOf, nameAt_cons_succ, nameAt_nameBytes name, byteAt_cons_succ, byteAt_cons_zero, wordAt_cons_succ,
    wordAt_cons_zero, idOf_byteOf (show 16 < 256 by decide), mask, ReleaseMode.ofCode_code, delays, rate]
  rfl

/-! ## Annunciators and the general settings (R152, R185) -/

theorem annunciatorOf_annunciatorBytes (a : AnnunciatorId) (f : AnnunciatorFunction) :
    annunciatorOf (annunciatorBytes a f) = some (a, f) := by
  cases f <;> simp [annunciatorOf, annunciatorBytes, functionField, functionOf, idOf_byteOf]

theorem generalOf_generalBytes {g : GeneralSettings} (timeout : g.silenceTimeout ≤ 255) :
    generalOf (generalBytes g) = some g := by
  have small : g.reportMask.toNat < 128 := g.reportMask.isLt
  have mask : reportMaskOf (byteOf g.reportMask.toNat).toNat = some g.reportMask := by
    rw [byteOf_toNat (by omega), reportMaskOf, if_pos small, BitVec.ofNat_toNat, BitVec.setWidth_eq]
  simp [generalOf, generalBytes, mask, byteOf_toNat (show g.silenceTimeout < 256 by omega)]

/-- Settles O46: each record by its own fields, and the EMPTY form by its source kind. -/
theorem recordsReadBackWhole : Obligations.RecordsReadBackWhole := by
  refine ⟨fun _ _ => inputOf_inputBytes, fun _ _ => ladderOf_ladderBytes, fun _ _ => stationOf_stationBytes,
    fun _ _ => bindingOf_bindingBytes, fun b => ⟨rfl, ?_, ?_⟩, fun _ _ _ => sceneOf_sceneBytes,
    fun _ _ => circuitOf_circuitBytes, fun _ _ _ => zoneOf_zoneBytes, annunciatorOf_annunciatorBytes,
    fun _ => generalOf_generalBytes⟩
  · simp [bindingOf, bindingBytes, wordOf, sourceOf]
  · exact (congrArg _ (word_toNat (numberOf_lt b (by decide)))).trans (idOf_numberOf b)

end Sys2Proof.Machine

/-! PROOFS. The runtime requests, the reads and the saves that answer with what they find (R88, R108 to R110, R124, R144 to
R147, R151, R183, R192, R197). -/

namespace Sys2Proof.Machine

/-! ## Claims placed and withdrawn by the host (R88, R108 to R110) -/

/-- The two classes of R110 are those a host request may not name. -/
theorem ofHost_iff (cls : ClaimClass) : cls.ofHost = true ↔ ¬ (cls = .loc ∨ cls = .egress) := by
  cases cls <;> simp [ClaimClass.ofHost]

/-- A request for a class that the host may not have is answered DENIED, and any other is carried out (R110). -/
theorem request_ofHost {k : Byte} {carry : List Byte → State → Answer} {p : List Byte} {s u : State} {cls : ClaimClass}
    {status : Status} (h : RequestHeads k p s)
    (hc : carry p s.taken = if cls.ofHost then { state := u, status := status, results := [] } else refuse .denied s.taken) :
    request k carry p s =
      .next (if cls = .loc ∨ cls = .egress then replied k .denied [] s.taken else replied k status [] u) := by
  rw [request_headed h, hc]
  by_cases host : cls = .loc ∨ cls = .egress
  · rw [if_neg (mt (ofHost_iff cls).mp (not_not_intro host)), if_pos host]
    rfl
  · rw [if_pos ((ofHost_iff cls).mpr host), if_neg host]
    cases status <;> rfl

/-- Settles O22: each request names a circuit or scene and a class, and the class alone decides whether it is carried
out. -/
theorem hostClaimRequestsAreAnswered : Obligations.HostClaimRequestsAreAnswered := by
  intro p cls s named
  refine ⟨fun c h size unit => ?_, fun c h size unit => ?_, fun sc h size unit => ?_, fun sc h size unit => ?_⟩
  · refine request_ofHost (carry := carryLevel) (cls := cls) h ?_
    simp only [carryLevel, size, unit, named]
    rfl
  · refine request_ofHost (carry := carryClear) (cls := cls) h ?_
    simp only [carryClear, size, unit, named]
    rfl
  · refine request_ofHost (carry := carryRecall) (cls := cls) h ?_
    simp only [carryRecall, size, unit, named]
    rfl
  · refine request_ofHost (carry := carryDrop) (cls := cls) h ?_
    simp only [carryDrop, size, unit, named]
    rfl

/-! ## An effective EGRESS claim (R97 to R100, R113) -/

/-- A claim of a lower class, however it is placed, leaves the claim at the front of the list there. -/
theorem placed_front {n e : Claim} {l m : List Claim} (lower : n.cls.rank < e.cls.rank)
    (hp : placeClaim n (e :: l) = .taken m ∨ ∃ old, placeClaim n (e :: l) = .evicted old m) : ∃ rest, m = e :: rest := by
  have front (r : List Claim) : insertClaim n (e :: r) = e :: insertClaim n r := by rw [insertClaim, if_pos lower]
  have other : e.key ≠ n.key := fun same => by
    rw [show e.cls = n.cls from congrArg Key.cls same] at lower
    exact lt_irrefl _ lower
  have keeps : dropKey n.key (e :: l) = e :: dropKey n.key l := List.filter_cons_of_pos (by simpa using other)
  unfold placeClaim at hp
  split at hp
  · simp only [keeps, front, Placement.taken.injEq, reduceCtorEq, exists_false, or_false] at hp
    exact ⟨_, hp.symm⟩
  · split at hp
    · simp only [front, Placement.taken.injEq, reduceCtorEq, exists_false, or_false] at hp
      exact ⟨_, hp.symm⟩
    · next long =>
      have behind : l ≠ [] := by rintro rfl; simp at long
      rw [List.dropLast_cons_of_ne_nil behind] at hp
      split at hp
      · next none => simp at none
      · split at hp
        · simp at hp
        · simp only [reduceCtorEq, Placement.evicted.injEq, false_or] at hp
          obtain ⟨-, -, rfl⟩ := hp
          exact ⟨_, front _⟩

theorem rank_lt_egress {cls : ClaimClass} (h : cls ≠ .egress) : cls.rank < ClaimClass.egress.rank := by
  cases cls with
  | egress => exact absurd rfl h
  | _ => decide

/-- Settles O25: a claim of another class ranks below EGRESS and goes behind the claim at the front. -/
theorem egressClaimStaysEffective : Obligations.EgressClaimStaysEffective := by
  intro c n e fade s _ effective egress other
  have stays : ((place c n fade s).circuits.get c).claims.head? = some e := by
    rcases place_circuits c n fade s with same | ⟨m, placed, circuits⟩
    · rw [same, effective]
    · obtain ⟨l, list⟩ := List.head?_eq_some_iff.mp effective
      obtain ⟨rest, rfl⟩ := placed_front (egress ▸ rank_lt_egress other) (list ▸ placed)
      rw [circuits, Table.get_set_self, Circuit.retarget_claims]
      rfl
  refine ⟨stays, (egressActive_iff _).mpr ⟨c, e, stays, egress⟩, fun cs => ?_⟩
  obtain ⟨rest, list⟩ := List.head?_eq_some_iff.mp stays
  rw [Circuit.target, list]

/-! ## A change of a zone's state (R143, R149, R150) -/

/-- A change of a zone's state is the new record, the LOCAL ramps that end on an entry to HELD, and the report. -/
theorem enterZone_eq (z : ZoneId) (n : ZoneStateName) (s : State) :
    enterZone z n s = raise (.zone z n (s.zones.get z).force (activeMasked s z)) { s with
      zones := s.zones.set z
        { state := n, force := (s.zones.get z).force, timer := releaseTimer (s.settings.zones.get z) n }
      ramps := if n = .held then s.ramps.filter fun r => !(decide (r.cls = .loc) && decide (r.zone = z)) else s.ramps } := by
  unfold enterZone State.setZone endRamps
  by_cases held : n = .held
  · simp only [held, if_true, Table.get_set_self]
    rfl
  · simp only [held, if_false, Table.get_set_self]
    rfl

theorem releaseTimer_eq (zs : ZoneSettings) (n : ZoneStateName) :
    releaseTimer zs n = if n = .releasing then some (zs.delay * 1000) else none := by cases n <;> rfl

/-- The state that a zone is in once it is re-evaluated (R143). -/
def followedState (zs : ZoneSettings) (isCalled : Bool) (old : ZoneStateName) : ZoneStateName :=
  if isCalled then .held else if old = .held then leaveHeld zs else old

theorem reevaluate_eq (z : ZoneId) (s : State) :
    reevaluate z s =
      if followedState (s.settings.zones.get z) (called s z) (s.zones.get z).state = (s.zones.get z).state then s
      else enterZone z (followedState (s.settings.zones.get z) (called s z) (s.zones.get z).state) s := by
  unfold reevaluate followedState
  cases called s z with
  | true => cases (s.zones.get z).state <;> rfl
  | false =>
    cases (s.zones.get z).state with
    | held => exact (if_neg (leaveHeld_ne_held _)).symm
    | _ => rfl

/-! ## Force and release (R144 to R147) -/

/-- A request that names a zone is carried out on it. -/
theorem force_headed {p : List Byte} {z : ZoneId} {s : State} (h : RequestHeads 0x11 p s) (size : p.length = 1)
    (unit : idOf 16 (byteAt p 0) = some z) : exec (.force p) s = .next (replied 0x11 .done [] (forceZone z s.taken)) := by
  refine request_done h ?_
  simp only [carryForce, size, unit]
  rfl

/-- A zone called enters HELD where it is not HELD already, with its LOCAL ramps ended. -/
theorem reevaluate_of_called {z : ZoneId} {s : State} (h : called s z = true) :
    reevaluate z s = if (s.zones.get z).state = .held then s else enterZone z .held s := by
  rw [reevaluate_eq, followedState, h, if_pos rfl]
  exact if_congr eq_comm rfl rfl

theorem forceZone_of_on {z : ZoneId} {s : State} (on : (s.zones.get z).force = true) : forceZone z s = s := if_pos on

/-- The force set calls the zone, so its re-evaluation leaves it HELD, and nothing else but its LOCAL ramps moves. -/
theorem forceZone_of_off {z : ZoneId} {s : State} (off : (s.zones.get z).force = false) :
    forceZone z s = reevaluate z (s.setZone z { s.zones.get z with force := true }) ∧
    ((forceZone z s).zones.get z).state = .held ∧ ((forceZone z s).zones.get z).force = true ∧
    (∀ y, y ≠ z → (forceZone z s).zones.get y = s.zones.get y) ∧
    (forceZone z s).ramps = if (s.zones.get z).state = .held then s.ramps
      else s.ramps.filter fun r => !(decide (r.cls = .loc) && decide (r.zone = z)) := by
  have forced : forceZone z s = reevaluate z (s.setZone z { s.zones.get z with force := true }) :=
    if_neg (by rw [off]; decide)
  refine ⟨forced, ?_⟩
  rw [forced]
  generalize set : s.setZone z { s.zones.get z with force := true } = v
  have record : v.zones.get z = { s.zones.get z with force := true } := set ▸ Table.get_set_self _ _ _
  have others (y : ZoneId) (hy : y ≠ z) : v.zones.get y = s.zones.get y := set ▸ Table.get_set_ne _ _ (Ne.symm hy)
  have ramps : v.ramps = s.ramps := set ▸ rfl
  rw [reevaluate_of_called (show called v z = true by rw [called, record]; rfl), record]
  by_cases held : (s.zones.get z).state = .held
  · rw [if_pos held, if_pos held]
    exact ⟨by rw [record, held], by rw [record], others, ramps⟩
  · rw [if_neg held, if_neg held, enterZone_zones, Table.get_set_self, enterZone_ramps, ramps]
    exact ⟨rfl, by rw [record], fun y hy => (Table.get_set_ne _ _ (Ne.symm hy)).trans (others y hy), rfl⟩

/-- Settles O33: the force set calls the zone, so re-evaluation holds it. -/
theorem forceHoldsTheZone : Obligations.ForceHoldsTheZone := by
  intro p z s h size unit
  rw [force_headed h size unit]
  refine ⟨fun on => ?_, fun off => ?_⟩
  · rw [forceZone_of_on (s := s.taken) on]
  · obtain ⟨whole, held, force, others, ramps⟩ := forceZone_of_off (z := z) (s := s.taken) off
    exact ⟨forceZone z s.taken, rfl, forceZone_frame _ _, whole, held, force, others,
      fun same => ramps.trans (if_pos same), fun other => ramps.trans (if_neg other)⟩

theorem release_headed {p : List Byte} {z : ZoneId} {s : State} (h : RequestHeads 0x12 p s) (size : p.length = 1)
    (unit : idOf 16 (byteAt p 0) = some z) : exec (.release p) s = .next (replied 0x12
      (if ((releaseZone z s.taken).zones.get z).state = .held then .stillHeld else .done) [] (releaseZone z s.taken)) := by
  have carried : carryRelease p s.taken =
      ⟨releaseZone z s.taken, if ((releaseZone z s.taken).zones.get z).state = .held then .stillHeld else .done, []⟩ := by
    simp only [carryRelease, size, unit]
    rfl
  refine (request_headed h).trans ?_
  rw [carried]
  by_cases held : ((releaseZone z s.taken).zones.get z).state = .held
  · simp only [if_pos held]; rfl
  · simp only [if_neg held]; rfl

/-- The table of R145, written out by the state that the zone leaves. -/
theorem releaseTo_eq (zs : ZoneSettings) (p : Prop) [Decidable p] (old : ZoneStateName) :
    releaseTo zs (decide p) old = match old with
      | .held => if p then .held else if zs.mode = .manual ∨ zs.delay = 0 then .free else .releasing
      | .awaiting => .free
      | .releasing => .releasing
      | .free => .free := by
  cases old with
  | held => by_cases hp : p <;> cases hm : zs.mode <;> simp [releaseTo, hm, hp]
  | _ => rfl

/-- With its force cleared, a zone is called exactly while a condition of its mask is active (R142). -/
theorem called_unforced (z : ZoneId) (record : Zone) (off : record.force = false) (s : State) :
    called (s.setZone z record) z = decide (activeMasked s z ≠ 0) := by
  rw [called, activeMasked_setZone, show (s.setZone z record).zones.get z = record from Table.get_set_self _ _ _, off]
  rfl

/-- A zone moves by R145's table once its force is cleared. -/
theorem releaseZone_eq (z : ZoneId) (s : State) :
    releaseZone z s =
      let cleared := s.setZone z { s.zones.get z with force := false }
      let next := releaseTo (s.settings.zones.get z) (decide (activeMasked s z ≠ 0)) (s.zones.get z).state
      if next = (s.zones.get z).state then cleared else enterZone z next cleared := by
  unfold releaseZone
  dsimp only
  rw [called_unforced z _ rfl,
    show (s.setZone z { s.zones.get z with force := false }).zones.get z = { s.zones.get z with force := false } from
      Table.get_set_self _ _ _]
  rfl

/-- A release moves no zone into HELD. -/
theorem releaseTo_ne_held {zs : ZoneSettings} {isCalled : Bool} {old : ZoneStateName}
    (moves : releaseTo zs isCalled old ≠ old) : releaseTo zs isCalled old ≠ .held := by
  cases old with
  | held => exact moves
  | _ => simp [releaseTo]

/-- What a release leaves: one zone's record, and the report of a state that is new. -/
theorem releaseZone_leaves {z : ZoneId} {s : State} {next : ZoneStateName}
    (table : releaseTo (s.settings.zones.get z) (decide (activeMasked s z ≠ 0)) (s.zones.get z).state = next) :
    (releaseZone z s = if next = (s.zones.get z).state then { s with zones := (releaseZone z s).zones }
      else raise (.zone z next false (activeMasked s z)) { s with zones := (releaseZone z s).zones }) ∧
    (releaseZone z s).ramps = s.ramps ∧
    (releaseZone z s).zones = s.zones.set z
      { state := next, force := false,
        timer := if next = (s.zones.get z).state then (s.zones.get z).timer
          else if next = .releasing then some ((s.settings.zones.get z).delay * 1000) else none } := by
  have moved := releaseZone_eq z s
  dsimp only at moved
  rw [table] at moved
  by_cases stays : next = (s.zones.get z).state
  · rw [if_pos stays] at moved
    rw [moved, if_pos stays, if_pos stays, stays]
    exact ⟨rfl, rfl, rfl⟩
  · rw [if_neg stays] at moved
    have other : next ≠ .held := table ▸ releaseTo_ne_held (table ▸ stays)
    let cleared := s.setZone z { s.zones.get z with force := false }
    have record : cleared.zones.get z = { s.zones.get z with force := false } := Table.get_set_self _ _ _
    have zones : (enterZone z next cleared).zones = s.zones.set z
        { state := next, force := false, timer := releaseTimer (s.settings.zones.get z) next } := by
      rw [enterZone_zones, record]
      exact Table.set_set _ _ _ _
    rw [moved, zones, if_neg stays, if_neg stays, releaseTimer_eq]
    refine ⟨?_, (enterZone_ramps _ _ _).trans (if_neg other), rfl⟩
    rw [enterZone_eq, record, if_neg other, ← releaseTimer_eq]
    exact congrArg (fun t => raise (.zone z next false (activeMasked s z)) { s with zones := t }) (Table.set_set _ _ _ _)

/-- Settles O34: the release moves its zone by R145's table, and the timer's expiry is one change of state. -/
theorem releaseMovesTheZoneByItsTable : Obligations.ReleaseMovesTheZoneByItsTable := by
  refine ⟨fun p z s h size unit => ?_, fun z s running releasing timer => ?_⟩
  · intro zs old next
    have table : releaseTo zs (decide (activeMasked s z ≠ 0)) old.state = next := releaseTo_eq zs _ _
    clear_value next
    obtain ⟨whole, ramps, zones⟩ := releaseZone_leaves (s := s.taken) (z := z) table
    refine ⟨releaseZone z s.taken, ?_, whole, releaseZone_frame _ _, ramps, fun y hy => ?_, ?_⟩
    · rw [release_headed h size unit, zones, Table.get_set_self]
    · rw [zones]
      exact Table.get_set_ne _ _ (Ne.symm hy)
    · rw [zones]
      exact Table.get_set_self _ _ _
  · refine ⟨enterZone z .free s, ?_, enterZone_frame _ _ _, enterZone_ramps _ _ _, ?_, enterZone_zones _ _ _⟩
    · show execReleaseTimerExpiry z s = _
      exact eventIf_of_possible (p := fun s => decide ((s.zones.get z).state = .releasing) && (s.zones.get z).timer.isSome)
        running (by simp [releasing, timer])
    · rw [enterZone_zones, enterZone_eq]
      rfl

/-! ## A request on an empty queue (R173, R176) -/

/-- Every request of section 10.9 is carried out by `request` with its own kind. -/
theorem exec_requestOf {c : Instr} {k : Byte} {p : List Byte} (h : requestOf c = some (k, p)) :
    ∃ carry, ∀ s, exec c s = request k carry p s := by
  cases c <;> cases h <;> exact ⟨_, fun _ => rfl⟩

/-- A request received whole on an empty queue is the one that waits, and nothing but the silence timer and the zones has
moved. -/
theorem receiveEntry_empty {k : Byte} {p : List Byte} {s : State} (empty : s.requests = []) :
    (receiveEntry (.request k p) s).requests = [.request k p] ∧ (receiveEntry (.request k p) s).power = s.power ∧
      (receiveEntry (.request k p) s).replySlot = s.replySlot := by
  have frame := setSilence_frame (silenceStart s.settings.general.silenceTimeout) s
  unfold OnlyZones at frame
  unfold receiveEntry enqueue
  dsimp only
  rw [frame, empty]
  exact ⟨rfl, rfl, rfl⟩

/-- Settles O41: taking the request on the empty queue receives it first, and taking the one that waits does not. -/
theorem requestOnAnEmptyQueueIsFirstReceived : Obligations.RequestOnAnEmptyQueueIsFirstReceived := by
  intro c k p s named running slot empty idle
  obtain ⟨carry, carried⟩ := exec_requestOf named
  obtain ⟨waiting, power, reply⟩ := receiveEntry_empty (k := k) (p := p) empty
  have now : takable (.request k p) s = true := by simp [takable, slot, empty, idle]
  have after : takable (.request k p) (receiveEntry (.request k p) s) = true := by simp [takable, reply, slot, waiting]
  have same : dequeue (.request k p) s = dequeue (.request k p) (receiveEntry (.request k p) s) := by
    simp only [dequeue, empty, waiting]
  rw [carried, carried, request, request, eventIf_of_possible running now, eventIf_of_possible (power.trans running) after,
    takeRequest, take, take, same]

/-! ## Reads (R60, R86, R124, R151, R183, R184, R197) -/

/-- The number of a thing, sent as the one byte of a payload, names it. -/
theorem idOf_byte {n : Nat} (few : n < 256) (i : Fin n) (l : List Byte) : idOf n (byteAt (byteOf (numberOf i) :: l) 0) = some i :=
  idOf_byteOf few i

/-- The number of a thing, sent as the two bytes of a payload, names it. -/
theorem idOf_word {n : Nat} (few : n < 65536) (i : Fin n) : idOf n (wordAt (wordOf (numberOf i)) 0) = some i :=
  (congrArg _ (word_toNat (numberOf_lt i few))).trans (idOf_numberOf i)

/-- Settles O45: the number in the payload is that of the record read. -/
theorem getsReturnTheirRecords : Obligations.GetsReturnTheirRecords := by
  intro s
  refine ⟨fun i h => request_done h ?_, fun ch h => request_done h ?_, fun a h => request_done h ?_,
    fun b h => request_done h ?_, fun sc h => request_done h ?_, fun c h => request_done h ?_, fun z h => request_done h ?_, fun a h => request_done h ?_,
    fun h => request_done h rfl⟩
  · simp only [carryGetInput, idOf_byte (by decide) i]
    rfl
  · simp only [carryGetLadder, idOf_byte (by decide) ch]
    rfl
  · simp only [carryGetStation, idOf_byte (by decide) a]
    rfl
  · simp only [carryGetBinding, idOf_word (by decide) b]
    rfl
  · simp only [carryGetScene, idOf_byte (by decide) sc]
    rfl
  · simp only [carryGetCircuit, idOf_byte (by decide) c]
    rfl
  · simp only [carryGetZone, idOf_byte (by decide) z]
    rfl
  · simp only [carryGetAnnunciator, idOf_byte (by decide) a]
    rfl

/-- R91's tests, each in the terms of the circuits' claims and fades. -/
theorem sceneStatus_eq (s : State) (sc : SceneId) :
    sceneStatus s sc =
      if ¬ (∃ n, ∃ cl ∈ (s.circuits.get n).claims, cl.owner = .scene sc) then .inactive
      else if ∃ e ∈ (s.settings.scenes.get sc).entries,
        ∀ cl, (s.circuits.get e.circuit).claims.head? = some cl → cl.owner ≠ .scene sc then .partially
      else if ∃ e ∈ (s.settings.scenes.get sc).entries, (s.circuits.get e.circuit).fade.isSome = true then .fading
      else .full := by
  have present : (s.circuits.items.any fun c => c.claims.any fun cl => decide (cl.owner = .scene sc)) = true ↔
      ∃ n, ∃ cl ∈ (s.circuits.get n).claims, cl.owner = .scene sc := by
    rw [Table.any_items]
    simp
  have shown (c : Circuit) : c.shows sc = false ↔ ∀ cl, c.claims.head? = some cl → cl.owner ≠ .scene sc := by
    cases h : c.claims <;> simp [Circuit.shows, h]
  simp only [sceneStatus, Bool.not_eq_true', ← Bool.not_eq_true, present, List.any_eq_true, shown]

/-- Settles O47: each request by what it reads, and a scene's status by its tests in turn. -/
theorem readsAndQueriesAnswer : Obligations.ReadsAndQueriesAnswer := by
  intro s
  refine ⟨fun h => request_done h rfl, fun h => request_done h rfl, fun h => request_done h rfl, fun n h => request_done h ?_,
    fun sc h => request_done h ?_, fun sc => ?_, fun z h => request_done h ?_⟩
  · simp only [carryQueryCircuit, idOf_byte (by decide) n]
    rfl
  · simp only [carryQueryScene, idOf_byte (by decide) sc]
    rfl
  · intro entries present lacking fading
    rw [sceneStatus_eq]
    refine ⟨fun no => if_pos no, fun yes some => ?_, fun yes no some => ?_, fun yes no none => ?_, rfl, rfl, rfl, rfl⟩
    · rw [if_neg (not_not_intro yes), if_pos some]
    · rw [if_neg (not_not_intro yes), if_neg no, if_pos some]
    · rw [if_neg (not_not_intro yes), if_neg no, if_neg none]
  · simp only [carryQueryZone, idOf_byte (by decide) z]
    rfl

/-! ## A station read and its tallies cleared (R35) -/

/-- Settles O49: the clear option decides whether the tallies are zeroed behind their values. -/
theorem stationQueryReadsAndClears : Obligations.StationQueryReadsAndClears := by
  intro s a clear h
  refine request_done h ?_
  simp only [carryQueryStation, idOf_byte (by decide) a,
    show boolOf (byteAt [byteOf (numberOf a), boolByte clear] 1) = some clear from boolOf_boolByte clear]
  rfl

/-! ## Saves (R186, R192, R193) -/

/-- Settles O50: a save is asked for where none is under way, and ends with the image that verified. -/
theorem savesWriteTheLiveConfiguration : Obligations.SavesWriteTheLiveConfiguration := by
  refine fun s => ⟨fun h idle => request_done h ?_, fun verified running saving => ?_⟩
  · simp only [carrySave, show s.taken.saving = false from idle]
    rfl
  · show execSaveEnd verified s = _
    exact eventIf_of_possible (p := fun s => s.saving) running saving

end Sys2Proof.Machine

/-! PROOFS. SET_FLAGS, re-evaluation, and every condition that a zone masks (R137, R142, R143, R147, R149, R150). -/

namespace Sys2Proof.Machine

/-! ## Re-evaluation of the zones concerned (R143) -/

theorem reevaluate_other {y z : ZoneId} (other : y ≠ z) (s : State) : (reevaluate z s).zones.get y = s.zones.get y := by
  rw [reevaluate_eq]
  split
  · rfl
  · rw [enterZone_zones, Table.get_set_ne _ _ (Ne.symm other)]

/-- A zone not concerned is as it was. -/
theorem reevaluateWhere_unconcerned {p : ZoneId → Bool} {z : ZoneId} (not : p z = false) (s : State) :
    (reevaluateWhere p s).zones.get z = s.zones.get z := by
  refine foldl_kept (P := fun v => v.zones.get z = s.zones.get z) (fun v y kept => ?_) _ s rfl
  by_cases hy : p y = true
  · rw [if_pos hy, reevaluate_other (fun e => by rw [e, hy] at not; cases not), kept]
  · rw [if_neg hy, kept]

/-- A zone concerned is HELD exactly while it is called. -/
theorem reevaluateWhere_held_iff {p : ZoneId → Bool} {z : ZoneId} (concerned : p z = true) (s : State) :
    ((reevaluateWhere p s).zones.get z).state = .held ↔ called (reevaluateWhere p s) z = true := by
  obtain ⟨before, after, split⟩ := List.append_of_mem (List.mem_finRange z)
  unfold reevaluateWhere
  rw [split, List.foldl_append, List.foldl_cons, if_pos concerned]
  refine foldl_kept (P := fun v => (v.zones.get z).state = .held ↔ called v z = true) (fun v y kept => ?_) _ _
    (reevaluate_held_iff z _)
  by_cases hy : p y = true
  · rw [if_pos hy]
    by_cases same : z = y
    · subst same
      exact reevaluate_held_iff z v
    · rw [reevaluate_other same, reevaluate_called]
      exact kept
  · rw [if_neg hy]
    exact kept

/-! ## The conditions of a zone, bit by bit (R142, R188) -/

/-- The condition behind each bit of a mask: the eight flags, and the four that the part itself raises. -/
theorem activeMasked_bit {s : State} {z : ZoneId} {i : Nat} (hi : i < 12) :
    (activeMasked s z).getLsbD i = true ↔ (s.settings.zones.get z).mask.getLsbD i = true ∧
      (s.flags.getLsbD i = true ∨ (8 = i ∧ stationMissing s z = true) ∨ (9 = i ∧ ladderFault s z = true) ∨
        (10 = i ∧ linkSilent s = true) ∨ (11 = i ∧ mainsUnlocked s = true)) := by
  simp only [activeMasked, activeConditions, BitVec.getLsbD_and, BitVec.getLsbD_or, BitVec.getLsbD_setWidth,
    getLsbD_conditionBit hi, hi, decide_true, Bool.true_and, Bool.and_eq_true, Bool.or_eq_true, decide_eq_true_eq, or_assoc]

/-- A mask and the flags that change have a flag in common where they overlap at all. -/
theorem masked_change_iff (mask : BitVec 12) (old new : BitVec 8) :
    mask &&& (old ^^^ new).setWidth 12 ≠ 0 ↔
      ∃ f : FlagId, mask.getLsbD f.val = true ∧ new.getLsbD f.val ≠ old.getLsbD f.val := by
  constructor
  · intro overlap
    by_contra none
    simp only [not_exists, not_and, not_not] at none
    refine overlap (BitVec.eq_of_getLsbD_eq fun i hi => ?_)
    by_cases flag : i < 8
    · have same := none ⟨i, flag⟩
      cases hm : mask.getLsbD i with
      | false => simp [hm]
      | true => simp [hm, same hm]
    · simp [BitVec.getLsbD_of_ge _ _ (Nat.le_of_not_lt flag)]
  · rintro ⟨f, masked, changed⟩ apart
    have bit := congrArg (fun v => BitVec.getLsbD v f.val) apart
    have small : f.val < 12 := by have := f.isLt; omega
    have differ : (old.getLsbD f.val ^^ new.getLsbD f.val) = true := by
      cases h : old.getLsbD f.val <;> cases g : new.getLsbD f.val <;> simp_all
    simp only [BitVec.getLsbD_and, BitVec.getLsbD_setWidth, BitVec.getLsbD_xor, masked, small, differ] at bit
    simp at bit

/-! ## SET_FLAGS (R137) -/

/-- SET_FLAGS at the head of the queue gives the flags of its mask their values and leaves the others. -/
theorem setFlags_headed {mask values : Byte} {s : State} (h : RequestHeads 0x10 [mask, values] s) :
    exec (.setFlags [mask, values]) s =
      .next (replied 0x10 .done [] (changeFlags ((s.flags &&& ~~~mask) ||| (values &&& mask)) s.taken)) := request_done h rfl

/-- The flags after a SET_FLAGS, one by one. -/
theorem maskedFlags_bit (old mask values : Byte) (f : FlagId) :
    ((old &&& ~~~mask) ||| (values &&& mask)).getLsbD f.val =
      if mask.getLsbD f.val then values.getLsbD f.val else old.getLsbD f.val := by
  simp only [BitVec.getLsbD_or, BitVec.getLsbD_and, BitVec.getLsbD_not, f.isLt, decide_true, Bool.true_and]
  cases mask.getLsbD f.val <;> simp

/-- A change of the flags re-evaluates the zones that mask a flag that changed. -/
theorem changeFlags_eq (v : BitVec 8) (s : State) :
    changeFlags v s = reevaluateWhere (fun z => decide (∃ f : FlagId, (s.settings.zones.get z).mask.getLsbD f.val = true ∧
      v.getLsbD f.val ≠ s.flags.getLsbD f.val)) { s with flags := v } := by
  unfold changeFlags
  dsimp only
  congr 1
  exact funext fun z => decide_eq_decide.mpr (masked_change_iff _ _ _)

theorem setFlags_answered (mask values : Byte) (s : State) (h : RequestHeads 0x10 [mask, values] s) :
    ∃ u, exec (.setFlags [mask, values]) s = .next (replied 0x10 .done [] u) ∧
      u = reevaluateWhere (fun z => decide (∃ f : FlagId, (s.settings.zones.get z).mask.getLsbD f.val = true ∧
          u.flags.getLsbD f.val ≠ s.flags.getLsbD f.val)) { s.taken with flags := u.flags } ∧
      u = { s.taken with flags := u.flags, zones := u.zones, ramps := u.ramps, reports := u.reports, lost := u.lost } ∧
      (∀ f : FlagId, u.flags.getLsbD f.val =
        if mask.getLsbD f.val then values.getLsbD f.val else s.flags.getLsbD f.val) ∧
      (∀ z, (∃ f : FlagId, (s.settings.zones.get z).mask.getLsbD f.val = true ∧
          u.flags.getLsbD f.val ≠ s.flags.getLsbD f.val) →
        ((u.zones.get z).state = .held ↔ called u z = true)) ∧
      (∀ z, (∀ f : FlagId, (s.settings.zones.get z).mask.getLsbD f.val = true →
          u.flags.getLsbD f.val = s.flags.getLsbD f.val) → u.zones.get z = s.zones.get z) := by
  refine ⟨changeFlags ((s.flags &&& ~~~mask) ||| (values &&& mask)) s.taken, setFlags_headed h, ?_⟩
  rw [changeFlags_flags]
  generalize new : (s.flags &&& ~~~mask) ||| (values &&& mask) = v
  rw [changeFlags_eq v s.taken]
  refine ⟨rfl, ?_, fun f => new ▸ maskedFlags_bit s.flags mask values f, fun z changed => ?_, fun z same => ?_⟩
  · exact reevaluateWhere_frame _ { s.taken with flags := v }
  · exact reevaluateWhere_held_iff (decide_eq_true changed) _
  · refine reevaluateWhere_unconcerned (decide_eq_false fun ⟨f, masked, changed⟩ => changed (same f masked)) _

/-! ## Re-evaluation by its table (R143) -/

/-- The table of R143, written out by the state that the zone leaves. -/
theorem followedState_eq (zs : ZoneSettings) (isCalled : Bool) (old : ZoneStateName) :
    followedState zs isCalled old = match old with
      | .held => if isCalled then .held else (match zs.mode with
        | .manual => .awaiting
        | .auto => if zs.delay = 0 then .free else .releasing)
      | .free => if isCalled then .held else .free
      | .releasing => if isCalled then .held else .releasing
      | .awaiting => if isCalled then .held else .awaiting := by
  cases old <;> rfl

/-- Settles O35: the flags of the mask, the zones that mask them, and what re-evaluation makes of each. -/
theorem setFlagsChangesMaskedFlagsTogether : Obligations.SetFlagsChangesMaskedFlagsTogether := by
  refine ⟨setFlags_answered, fun _ _ => rfl, fun z s => ⟨?_, ?_, fun f => ?_, ?_, ?_, ?_, ?_⟩⟩
  · intro old zs next
    have table : followedState zs (called s z) old.state = next := followedState_eq zs (called s z) old.state
    clear_value next
    rw [reevaluate_eq, table]
    refine ⟨fun same => if_pos same, fun moves => ?_⟩
    rw [if_neg moves, enterZone_eq, releaseTimer_eq]
  · simp [called]
  · have small : f.val < 12 := by have := f.isLt; omega
    have (n : Nat) (hn : 8 ≤ n) : n ≠ f.val := by have := f.isLt; omega
    rw [activeMasked_bit small]
    simp [this]
  · rw [activeMasked_bit (by decide)]
    simp [stationMissing, StationStateName.lost_iff, and_assoc]
  · rw [activeMasked_bit (by decide)]
    simp [ladderFault]
  · rw [activeMasked_bit (by decide)]
    simp [linkSilent]
  · rw [activeMasked_bit (by decide)]
    simp [mainsUnlocked]

end Sys2Proof.Machine

/-! PROOFS. The warm restart (R7, R19, R42, R55, R111, R136, R156, R164, R186, R198). -/

namespace Sys2Proof.Machine

/-! ## The zones taken up again (R156) -/

/-- A zone's record after a warm restart. -/
def restartedZone (s : State) (z : ZoneId) : Zone :=
  let next := restartedZoneState (s.settings.zones.get z) (called s z) (s.zones.get z).state
  { state := next, force := (s.zones.get z).force, timer := releaseTimer (s.settings.zones.get z) next }

/-- The report of a zone whose state a warm restart changes. -/
def restartReports (s : State) (z : ZoneId) : List Report :=
  if s.settings.general.reportMask.getLsbD 1 = true ∧ (restartedZone s z).state ≠ (s.zones.get z).state then
    [.zone z (restartedZone s z).state (s.zones.get z).force (activeMasked s z)]
  else []

theorem raise_of_room {r : Report} {s : State} (room : s.reports.length < 32) :
    raise r s = { s with
      reports := s.reports ++ if s.settings.general.reportMask.getLsbD r.category.bit then [r] else [] } := by
  unfold raise
  rw [if_pos room]
  by_cases on : s.settings.general.reportMask.getLsbD r.category.bit = true
  · rw [if_pos on, if_pos on]
  · rw [if_neg on, if_neg on, List.append_nil]

/-- With the ramps gone and room for a report, a zone taken up again is its record and its report. -/
theorem restartZone_eq {s : State} (z : ZoneId) (ramps : s.ramps = []) (room : s.reports.length < 32) :
    restartZone s z =
      { s with zones := s.zones.set z (restartedZone s z), reports := s.reports ++ restartReports s z } := by
  unfold restartZone
  dsimp only
  by_cases same : restartedZoneState (s.settings.zones.get z) (called s z) (s.zones.get z).state = (s.zones.get z).state
  · have silent : restartReports s z = [] := if_neg fun ⟨_, moved⟩ => moved same
    have record : restartedZone s z = { s.zones.get z with timer := (restartedZone s z).timer } := by
      simp only [restartedZone, same]
    rw [if_pos same, silent, List.append_nil, record]
    rfl
  · have reports : restartReports s z = if s.settings.general.reportMask.getLsbD 1 = true then
        [.zone z (restartedZone s z).state (s.zones.get z).force (activeMasked s z)] else [] :=
      if_congr (and_iff_left same) rfl rfl
    have none (n : ZoneStateName) : (if n = .held then s.ramps.filter fun r => !(decide (r.cls = .loc) && decide (r.zone = z))
        else s.ramps) = s.ramps := by
      rw [ramps, List.filter_nil, ite_self]
    rw [if_neg same, enterZone_eq, none, raise_of_room (by exact room), reports]
    rfl

/-- A zone is taken up by its own record and its conditions, whatever has become of the others. -/
theorem restartedZone_other {s : State} {a z : ZoneId} (other : z ≠ a) (record : Zone) (reports : List Report) :
    let t := { s with zones := s.zones.set a record, reports := reports }
    restartedZone t z = restartedZone s z ∧ restartReports t z = restartReports s z ∧ t.zones.get z = s.zones.get z := by
  intro t
  have zone : t.zones.get z = s.zones.get z := Table.get_set_ne _ _ (Ne.symm other)
  have calls : called t z = called s z := by
    rw [called, zone]
    rfl
  have same : restartedZone t z = restartedZone s z := by
    simp only [restartedZone, calls, zone]
    rfl
  refine ⟨same, ?_, zone⟩
  simp only [restartReports, same, zone]
  rfl

/-- The zones are taken up one by one, each reporting a state that is new, in their order. -/
theorem restartZones_eq {l : List ZoneId} (once : l.Nodup) {s : State} (ramps : s.ramps = [])
    (room : s.reports.length + l.length ≤ 32) :
    l.foldl restartZone s = { s with
      zones := (l.foldl restartZone s).zones, reports := s.reports ++ l.flatMap (restartReports s) } ∧
    ∀ z, (l.foldl restartZone s).zones.get z = if z ∈ l then restartedZone s z else s.zones.get z := by
  induction l generalizing s with
  | nil => simp
  | cons a l ih =>
    obtain ⟨fresh, once⟩ := List.nodup_cons.mp once
    rw [List.length_cons] at room
    have first := restartZone_eq a ramps (s := s) (by omega)
    have one : (restartReports s a).length ≤ 1 := by
      unfold restartReports
      split <;> simp
    rw [List.foldl_cons, first]
    obtain ⟨whole, zones⟩ := ih once (s := { s with
      zones := s.zones.set a (restartedZone s a), reports := s.reports ++ restartReports s a }) ramps
      (by simp only [List.length_append]; omega)
    have later (z : ZoneId) (hz : z ∈ l) := restartedZone_other (s := s) (fun e : z = a => fresh (e ▸ hz)) (restartedZone s a)
      (s.reports ++ restartReports s a)
    refine ⟨whole.trans ?_, fun z => (zones z).trans ?_⟩
    · rw [List.flatMap_cons, ← List.append_assoc, List.flatMap_congr fun z hz => (later z hz).2.1]
    · by_cases here : z ∈ l
      · rw [if_pos here, if_pos (List.mem_cons_of_mem _ here)]
        exact (later z here).1
      · by_cases head : z = a
        · subst head
          rw [if_neg here, if_pos List.mem_cons_self]
          exact Table.get_set_self _ _ _
        · rw [if_neg here, if_neg (by simp [head, here])]
          exact Table.get_set_ne _ _ (Ne.symm head)

/-! ## The whole part restarted (R198) -/

theorem restart_headed {s : State} (h : RequestHeads 0x09 [] s) (idle : s.saving = false) :
    exec (.restart []) s = .next (replied 0x09 .done [] (warmRestart s.taken)) := by
  refine request_done h ?_
  simp only [carryRestart, show s.taken.saving = false from idle]
  rfl

/-- The turn that runs is nothing that the rotation or a POLL's patterns are read from. -/
theorem beginTurn_served (a : Option StationId) (s : State) : firstServed (beginTurn a s) = firstServed s := rfl

theorem beginTurn_newTurn (a : Option StationId) (s : State) : newTurn (beginTurn a s) = newTurn s := rfl

/-- A warm restart is every other block restarted, then the zones with their reports, then the first turn. -/
theorem warmRestart_leaves (s : State) :
    warmRestart s = { s.restarting with
      zones := (warmRestart s).zones, reports := (List.finRange 16).flatMap (restartReports s.restarting),
      turn := (firstServed (warmRestart s)).map (newTurn (warmRestart s)) } ∧
    ∀ z, (warmRestart s).zones.get z = restartedZone s.restarting z := by
  obtain ⟨whole, zones⟩ := restartZones_eq (List.nodup_finRange 16) (s := s.restarting) rfl (by simp [State.restarting])
  rw [warmRestart_eq]
  generalize (List.finRange 16).foldl restartZone s.restarting = v at whole zones
  refine ⟨?_, fun z => (zones z).trans (if_pos (List.mem_finRange z))⟩
  rw [beginTurn_served, beginTurn_newTurn]
  exact congrArg (fun w => { w with turn := (firstServed v).map (newTurn v) }) whole

/-- After a warm restart a zone is called exactly where it was when it was taken up (R142, R156). -/
theorem warmRestart_called (s : State) (z : ZoneId) : called (warmRestart s) z = called s.restarting z ∧
    activeMasked (warmRestart s) z = activeMasked s.restarting z := by
  obtain ⟨whole, zones⟩ := warmRestart_leaves s
  have unread (a : Table Zone 16) (b : List Report) (c : Option Turn) :
      activeMasked { s.restarting with zones := a, reports := b, turn := c } z = activeMasked s.restarting z := rfl
  have active : activeMasked (warmRestart s) z = activeMasked s.restarting z :=
    (congrArg (activeMasked · z) whole).trans (unread _ _ _)
  refine ⟨?_, active⟩
  rw [called, active, zones]
  rfl

/-- The reports of a warm restart, as the zones whose state is new. -/
theorem restartReports_eq (s : State) (l : List ZoneId) :
    l.flatMap (restartReports s) = if s.settings.general.reportMask.getLsbD 1 then
      (l.filter fun z => decide ((restartedZone s z).state ≠ (s.zones.get z).state)).map fun z =>
        .zone z (restartedZone s z).state (s.zones.get z).force (activeMasked s z)
      else [] := by
  by_cases on : s.settings.general.reportMask.getLsbD 1 = true
  · rw [if_pos on]
    induction l with
    | nil => rfl
    | cons z l ih =>
      rw [List.flatMap_cons, ih]
      by_cases moved : (restartedZone s z).state ≠ (s.zones.get z).state
      · rw [restartReports, if_pos ⟨on, moved⟩, List.filter_cons_of_pos (by simpa using moved)]
        rfl
      · rw [restartReports, if_neg (fun h => moved h.2), List.filter_cons_of_neg (by simpa using moved)]
        rfl
  · rw [if_neg on, List.flatMap_eq_nil_iff]
    exact fun z _ => if_neg fun h => on h.1

/-- The table of R156, written out by the state before. -/
theorem restartedZoneState_eq (zs : ZoneSettings) (isCalled : Bool) (old : ZoneStateName) :
    restartedZoneState zs isCalled old = if isCalled then .held else match old with
      | .held => (match zs.mode with
        | .manual => .awaiting
        | .auto => if zs.delay = 0 then .free else .releasing)
      | .free => .free
      | .releasing => .releasing
      | .awaiting => .awaiting := by
  cases isCalled <;> cases old <;> rfl

/-- The tracker of a contact input after a warm restart (R7, R55). -/
theorem restartContactTracker_eq (cs : InputSettings) (st : InputState) :
    restartContactTracker cs st =
      if cs.function = .contact ∧ cs.participate = true ∧ st.filtered = cs.sense.pressLevel then Tracker.latent
      else Tracker.idle := by
  unfold restartContactTracker
  cases h : cs.function with
  | contact => simp
  | ladder => simp

/-- Settles O51: each block by its own restart, the zones and reports by R156's table over the zones as they are taken
up. -/
theorem warmRestartKeepsTheLights : Obligations.WarmRestartKeepsTheLights := by
  intro s h idle
  refine ⟨warmRestart s.taken, restart_headed h idle, ?_⟩
  obtain ⟨left, zones⟩ := warmRestart_leaves s.taken
  have calls := warmRestart_called s.taken
  generalize warmRestart s.taken = u at left zones calls
  have turn : u.turn = (firstServed u).map (newTurn u) := congrArg State.turn left
  have reports := (congrArg State.reports left).trans (restartReports_eq _ _)
  have whole : u = { s.taken.restarting with zones := u.zones, reports := u.reports, turn := u.turn } := by
    rw [congrArg State.reports left, turn]
    exact left
  clear left
  have zone (z : ZoneId) : u.zones.get z =
      { state := restartedZoneState (s.settings.zones.get z) (called u z) (s.zones.get z).state, force := (s.zones.get z).force,
        timer := releaseTimer (s.settings.zones.get z)
          (restartedZoneState (s.settings.zones.get z) (called u z) (s.zones.get z).state) } := by
    rw [zones, (calls z).1]
    rfl
  have circuits (n : CircuitId) : u.circuits.get n = (s.circuits.get n).restart (s.settings.circuits.get n) := by
    rw [whole]
    exact Table.get_zipWith _ _ _ _
  refine ⟨by rw [whole]; rfl, by rw [whole]; rfl, by rw [whole]; rfl, by rw [whole]; rfl, by rw [whole]; rfl,
    by rw [whole]; rfl, by rw [whole]; rfl, by rw [whole]; rfl, by rw [whole]; rfl, by rw [whole]; rfl, ?_,
    fun i => ?_, fun a => ?_, turn, fun i => ?_, fun ch b => ?_, circuits, ?_, fun n => ?_, fun z => ?_, fun a b => ?_, ?_⟩
  · generalize u.zones = zs, u.reports = rs, u.turn = t at whole
    rw [whole]
    rfl
  · rw [whole]
    exact Table.get_map _ _ _
  · rw [whole]
    exact Table.get_zipWith _ _ _ _
  · rw [whole]
    exact (Table.get_zipWith _ _ _ _).trans (restartContactTracker_eq _ _)
  · rw [whole]
    exact (congrArg (Table.get · b) (Table.get_map _ _ _)).trans (Table.get_ofFn _ _)
  · intro next
    have table (z : ZoneId) : restartedZoneState (s.settings.zones.get z) (called u z) (s.zones.get z).state = next z :=
      restartedZoneState_eq _ _ _
    clear_value next
    refine ⟨fun z => by rw [zone, table, releaseTimer_eq], reports.trans ?_⟩
    have state (z : ZoneId) : (restartedZone s.taken.restarting z).state = next z := by rw [← zones, zone, table]
    simp only [state, ← (calls _).2]
    rfl
  · rw [circuits]
    exact ⟨rfl, rfl, rfl, rfl, rfl, rfl, rfl⟩
  · rw [zone]
    exact ⟨restartedZoneState_held_iff _ _ _, rfl⟩
  · rw [whole]
    exact (congrArg (Table.get · b) (Table.get_replicate _ _)).trans (Table.get_replicate _ _)
  · intro r hr
    rw [reports] at hr
    split at hr
    · obtain ⟨z, -, rfl⟩ := List.mem_map.mp hr
      exact ⟨_, _, _, _, rfl⟩
    · cases hr

end Sys2Proof.Machine

/-! PROOFS. The mains tracker: crossings, their intervals and windows, and the silence of the mains (R158, R161, R162, R167 to
R170). -/

namespace Sys2Proof.Machine

/-! ## Changes that wait for a crossing (R161, R162) -/

theorem applyCrossings_get (s : State) (n : CircuitId) :
    (applyCrossings s).circuits.get n = { s.circuits.get n with
      relay := match (s.circuits.get n).relay.waiting with
        | .atCrossing b =>
          { state := b, dwellRunning := decide ((s.settings.circuits.get n).minimumDwell ≠ 0), elapsed := 0, waiting := .none }
        | .none | .afterDwell _ => (s.circuits.get n).relay } := by
  refine (changeCircuits_get _ _ _).trans ?_
  unfold Relay.cross
  cases (s.circuits.get n).relay.waiting <;> rfl

/-- No change waits for a crossing once those that waited are applied. -/
theorem applyCrossings_again (s : State) : (applyCrossings (applyCrossings s)).circuits = (applyCrossings s).circuits := by
  refine Table.ext_get fun n => (changeCircuits_get _ _ _).trans ?_
  rw [show (applyCrossings s).circuits.get n = _ from changeCircuits_get _ _ _]
  generalize s.circuits.get n = c
  have same (r : Relay) (cs : CircuitSettings) : (r.cross cs).cross cs = r.cross cs := by
    unfold Relay.cross
    cases h : r.waiting <;> simp [Relay.apply, h]
  exact congrArg (fun r => { c with relay := r }) (same _ _)

/-! ## A crossing's effect (R161, R162, R168, R170) -/

/-- What a crossing does besides the tracker's own record: the waiting changes of a LOCKED tracker applied, the report of a new
state, the zones told of a change into or out of LOCKED. -/
def CrossingGives (s : State) (c : Instr) (next : Mains) : Prop :=
  ∃ u : State, u = { s with mains := next, circuits := u.circuits } ∧
    (s.mains.state ≠ .locked → u.circuits = s.circuits) ∧
    (s.mains.state = .locked → ∀ n, u.circuits.get n = { s.circuits.get n with
      relay := match (s.circuits.get n).relay.waiting with
        | .atCrossing b =>
          { state := b, dwellRunning := decide ((s.settings.circuits.get n).minimumDwell ≠ 0), elapsed := 0, waiting := .none }
        | .none | .afterDwell _ => (s.circuits.get n).relay }) ∧
    let told := if s.mains.state = next.state then u else raise (.mains next.state next.lastInterval) u
    exec c s = .next (serve (if s.mains.state = .locked ↔ next.state = .locked then told
      else reevaluateWhere (fun z => (s.settings.zones.get z).mask.getLsbD 11) told))

/-- A change of the tracker, with the circuits that it leaves given. -/
theorem changeMains_of_circuits {m : Mains} {s : State} {circuits : Table Circuit 128}
    (left : (if s.mains.state = .locked ∧ m.state ≠ .locked then (applyCrossings s).circuits else s.circuits) = circuits) :
    changeMains m s =
      let told := if s.mains.state = m.state then { s with mains := m, circuits := circuits }
        else raise (.mains m.state m.lastInterval) { s with mains := m, circuits := circuits }
      if s.mains.state = .locked ↔ m.state = .locked then told
      else reevaluateWhere (fun z => (s.settings.zones.get z).mask.getLsbD 11) told := by
  rw [← left]
  exact changeMains_stages m s

/-- A crossing taken, in its stages: the circuits of a LOCKED tracker are crossed once, whether or not it unlocks. -/
theorem takeCrossing_stages (moment : Nat) (s : State) :
    let next := s.mains.crossing s.settings.general.nominal moment
    let circuits := if s.mains.state = .locked then (applyCrossings s).circuits else s.circuits
    let told := if s.mains.state = next.state then { s with mains := next, circuits := circuits }
      else raise (.mains next.state next.lastInterval) { s with mains := next, circuits := circuits }
    takeCrossing moment s = if s.mains.state = .locked ↔ next.state = .locked then told
      else reevaluateWhere (fun z => (s.settings.zones.get z).mask.getLsbD 11) told := by
  unfold takeCrossing
  by_cases locked : s.mains.state = .locked
  · rw [if_pos (show mainsLocked s = true from decide_eq_true locked), if_pos locked]
    exact changeMains_of_circuits (s := applyCrossings s)
      (show (if _ then (applyCrossings (applyCrossings s)).circuits else _) = _ by rw [applyCrossings_again, ite_self])
  · rw [if_neg (show ¬ mainsLocked s = true by simpa [mainsLocked] using locked), if_neg locked]
    exact changeMains_of_circuits (if_neg fun h => locked h.1)

theorem crossing_gives {moment : Nat} {s : State} {next : Mains} (running : s.power = .running)
    (heard : silentBefore moment s.mains = false) (judged : s.mains.crossing s.settings.general.nominal moment = next) :
    CrossingGives s (.zeroCrossing moment) next ∧ (s.mains.state ≠ .locked → next.state = .locked →
      CrossingGives s (.mainsLock moment) next) := by
  have crossed : crossMains moment s = takeCrossing moment s := by
    rw [crossMains, heard]
    rfl
  have stages := takeCrossing_stages moment s
  rw [judged] at stages
  have gives (c : Instr) (taken : exec c s = .next (serve (crossMains moment s))) : CrossingGives s c next := by
    refine ⟨{ s with mains := next, circuits := if s.mains.state = .locked then (applyCrossings s).circuits else s.circuits },
      rfl, fun other => if_neg other, fun locked n => ?_, ?_⟩
    · rw [if_pos locked]
      exact applyCrossings_get s n
    · rw [taken, crossed, stages]
  refine ⟨gives _ (event_of_running running), fun unlocked locks => gives _ ?_⟩
  refine eventIf_of_possible (p := locksAt moment) running ?_
  simp [locksAt, mainsLocked, unlocked, heard, judged, locks]

/-! ## The interval judged (R167, R168) -/

section
variable {m : Mains} {n : Nominal} {moment p : Nat}

theorem silentBefore_of_first (h : m.previous = none) : silentBefore moment m = false := by
  unfold silentBefore
  rw [h]

theorem silentBefore_of_near (h : m.previous = some p) (near : moment ≤ p + 40000) : silentBefore moment m = false := by
  unfold silentBefore
  rw [h]
  cases m.silence with
  | none => rfl
  | some _ => exact decide_eq_false (by omega)

/-- A crossing with a previous one, past ABSENT: its interval is judged. -/
theorem crossing_of_previous (h : m.previous = some p) (seen : m.state ≠ .absent) :
    m.crossing n moment = { ({ m with lastInterval := moment - p } : Mains).judge n (moment - p) with
      previous := some moment, silence := some 40 } := by
  unfold Mains.crossing
  simp only [h, if_neg seen]
  rfl

theorem judge_inside (h : m.state = .acquiring) (inside : inLockWindow n p = true) :
    m.judge n p = { m with
      lockCount := m.lockCount + 1, state := if 16 ≤ m.lockCount + 1 then .locked else .acquiring } := by
  unfold Mains.judge
  rw [h]
  exact if_pos inside

theorem judge_outside (h : m.state = .acquiring) (outside : inLockWindow n p = false) : m.judge n p = { m with lockCount := 0 } := by
  unfold Mains.judge
  rw [h]
  exact if_neg (Bool.eq_false_iff.mp outside)

theorem judge_kept (h : m.state = .locked) (inside : inKeepWindow n p = true) : m.judge n p = m := by
  unfold Mains.judge
  rw [h]
  exact if_pos inside

theorem judge_lost (h : m.state = .locked) (outside : inKeepWindow n p = false) :
    m.judge n p = { m with state := .acquiring, lockCount := 0 } := by
  unfold Mains.judge
  rw [h]
  exact if_neg (Bool.eq_false_iff.mp outside)

end

/-- The windows of R167's table, both bounds inside. -/
theorem inLockWindow_iff (n : Nominal) (d : Nat) : inLockWindow n d = true ↔
    (match n with | .hz50 => 9800 | .hz60 => 8167) ≤ d ∧ d ≤ (match n with | .hz50 => 10200 | .hz60 => 8499) := by
  cases n <;> simp [inLockWindow]

theorem inKeepWindow_iff (n : Nominal) (d : Nat) : inKeepWindow n d = true ↔
    (match n with | .hz50 => 9400 | .hz60 => 7833) ≤ d ∧ d ≤ (match n with | .hz50 => 10600 | .hz60 => 8833) := by
  cases n <;> simp [inKeepWindow]

/-- Settles O31: the tracker's new record by the judgement of the interval, everything else by the crossing's stages. -/
theorem crossingsLockTheMainsTracker : Obligations.CrossingsLockTheMainsTracker := by
  intro moment s running m lockLow lockHigh keepLow keepHigh gives
  have lockWindow (d : Nat) : inLockWindow s.settings.general.nominal d = true ↔ lockLow ≤ d ∧ d ≤ lockHigh := inLockWindow_iff _ d
  have keepWindow (d : Nat) : inKeepWindow s.settings.general.nominal d = true ↔ keepLow ≤ d ∧ d ≤ keepHigh := inKeepWindow_iff _ d
  clear_value lockLow lockHigh keepLow keepHigh
  refine ⟨fun absent first => ?_, fun acquiring first => ?_, fun p previous after near => ?_⟩
  · refine (crossing_gives running (silentBefore_of_first first) ?_).1
    simp [Mains.crossing, show s.mains.state = .absent from absent, show s.mains.previous = none from first, m, mainsSilence]
  · refine (crossing_gives running (silentBefore_of_first first) ?_).1
    simp [Mains.crossing, show s.mains.state = .acquiring from acquiring, show s.mains.previous = none from first, m, mainsSilence]
  intro d later
  have heard := silentBefore_of_near previous near
  have outside {low high : Nat} {window : Bool} (h : window = true ↔ low ≤ d ∧ d ≤ high) (out : d < low ∨ high < d) :
      window = false := by
    refine Bool.eq_false_iff.mpr fun inside => ?_
    have := h.mp inside
    omega
  have judged {j : Mains} (seen : m.state ≠ .absent)
      (judge : ({ m with lastInterval := d } : Mains).judge s.settings.general.nominal d = j) :
      m.crossing s.settings.general.nominal moment = { j with previous := some moment, silence := some 40 } := by
    rw [crossing_of_previous previous seen, judge]
  have unlocked (h : m.state = .acquiring) : m.state ≠ .absent ∧ m.state ≠ .locked := by rw [h]; decide
  refine ⟨fun acquiring inside few => ?_, fun acquiring inside many => ?_, fun acquiring out => ?_, fun locked inside => ?_,
    fun locked out => ?_⟩
  · refine (crossing_gives running heard ((judged (unlocked acquiring).1
      (judge_inside acquiring ((lockWindow d).mpr inside))).trans ?_)).1
    simp only [later, if_neg (Nat.not_le.mpr few), acquiring]
  · obtain ⟨crosses, locks⟩ := crossing_gives running heard
      (next := { later with state := .locked, lockCount := m.lockCount + 1 }) ((judged (unlocked acquiring).1
      (judge_inside acquiring ((lockWindow d).mpr inside))).trans (by simp only [if_pos many, later]))
    exact ⟨crosses, locks (unlocked acquiring).2 rfl⟩
  · exact (crossing_gives running heard (judged (unlocked acquiring).1
      (judge_outside acquiring (outside (lockWindow d) out)))).1
  · exact (crossing_gives running heard (judged (by rw [locked]; decide)
      (judge_kept locked ((keepWindow d).mpr inside)))).1
  · exact (crossing_gives running heard (judged (by rw [locked]; decide)
      (judge_lost locked (outside (keepWindow d) out)))).1

/-! ## The silence of the mains (R158, R162, R168, R170) -/

/-- The circuits that an expiry of the silence timer leaves: those of a LOCKED tracker crossed. -/
theorem expireMains_circuits (s : State) :
    (if s.mains.state = .locked ∧ s.mains.silent.state ≠ .locked then (applyCrossings s).circuits else s.circuits) =
      if s.mains.state = .locked then (applyCrossings s).circuits else s.circuits :=
  if_congr (and_iff_left (show MainsState.absent ≠ .locked by decide)) rfl rfl

theorem expireMains_stages {s : State} (heard : s.mains.state ≠ .absent) :
    expireMains s =
      let told := raise (.mains .absent s.mains.lastInterval) { s with
        mains := s.mains.silent
        circuits := if s.mains.state = .locked then (applyCrossings s).circuits else s.circuits }
      if s.mains.state = .locked then reevaluateWhere (fun z => (s.settings.zones.get z).mask.getLsbD 11) told else told := by
  refine (changeMains_of_circuits (expireMains_circuits s)).trans ?_
  dsimp only
  rw [if_neg (show ¬ s.mains.state = s.mains.silent.state from heard)]
  by_cases locked : s.mains.state = .locked
  · rw [if_pos locked, if_pos locked, if_neg (show ¬ (_ ↔ s.mains.silent.state = .locked) by simp [locked, Mains.silent])]
    rfl
  · rw [if_neg locked, if_neg locked, if_pos (show _ ↔ s.mains.silent.state = .locked by simp [locked, Mains.silent])]
    rfl

/-- Settles O32: the expiry is one change of the tracker, out of LOCKED where it was LOCKED. -/
theorem mainsSilenceAppliesWaitingChanges : Obligations.MainsSilenceAppliesWaitingChanges := by
  intro s running heard timer
  have taken : exec .mainsSilenceExpiry s = .next (serve (expireMains s)) :=
    eventIf_of_possible (p := fun s => decide (s.mains.state ≠ .absent) && s.mains.silence.isSome) running
      (by simp [heard, timer])
  have frame := (changeMains_frame s.mains.silent s).core
  rw [expireMains_circuits] at frame
  have circuits : (serve (expireMains s)).circuits = if s.mains.state = .locked then (applyCrossings s).circuits else s.circuits :=
    (serve_circuits _).trans frame.circuits
  have mains : (serve (expireMains s)).mains = s.mains.silent := (serve_mains _).trans frame.mains
  refine ⟨serve (expireMains s), taken, mains, ⟨_, rfl, ?_⟩, fun acquiring => ?_, fun locked => ⟨fun n => ?_, fun z masked => ?_⟩⟩
  · rw [circuits, mains, expireMains_stages heard]
  · rw [circuits, if_neg (by rw [acquiring]; decide)]
  · rw [circuits, if_pos locked]
    exact applyCrossings_get s n
  · rw [serve_zones, serve_called, expireMains_stages heard, if_pos locked]
    exact reevaluateWhere_held_iff masked _

end Sys2Proof.Machine

/-! PROOFS. The tick: the relay request handed on, the output values, the refresh frame, and what else it reaches (R121, R123,
R127, R131 to R134, R157 to R160, R165). -/

namespace Sys2Proof.Machine

/-! ## A relay request handed to the sequencer (R158, R159) -/

section
variable {cs : CircuitSettings} {locked : Bool} {r : Relay}

theorem Relay.hand_same (b : Bool) (same : b = r.state) : r.hand cs locked b = { r with waiting := .none } := if_pos same

theorem Relay.hand_during_dwell (ok : r.Sound cs locked) {b : Bool} (other : b ≠ r.state) (dwell : r.dwellRunning = true) :
    r.hand cs locked b = { r with waiting := .afterDwell b } := by
  rw [Relay.hand, if_neg other]
  cases h : r.waiting with
  | none => exact if_pos dwell
  | afterDwell _ => rfl
  | atCrossing c => exact absurd (ok.atCrossing c h).2.1 (by rw [dwell]; decide)

theorem Relay.hand_at_crossing (ok : r.Sound cs locked) {b : Bool} (other : b ≠ r.state) (ended : r.dwellRunning = false)
    (align : cs.align = true) (lock : locked = true) : r.hand cs locked b = { r with waiting := .atCrossing b } := by
  rw [Relay.hand, if_neg other]
  cases h : r.waiting with
  | none => simp [ended, Relay.afterDwell, align, lock]
  | afterDwell c => exact absurd (ok.afterDwell c h).2 (by rw [ended]; decide)
  | atCrossing _ => rfl

theorem Relay.hand_at_once (ok : r.Sound cs locked) {b : Bool} (other : b ≠ r.state) (ended : r.dwellRunning = false)
    (now : cs.align = false ∨ locked = false) : r.hand cs locked b = Relay.apply cs b := by
  have free : (cs.align && locked) = false := by rcases now with h | h <;> simp [h]
  rw [Relay.hand, if_neg other]
  cases h : r.waiting with
  | none => simp [ended, Relay.afterDwell, free]
  | afterDwell c => exact absurd (ok.afterDwell c h).2 (by rw [ended]; decide)
  | atCrossing c =>
    obtain ⟨-, -, align, lock⟩ := ok.atCrossing c h
    rw [align, lock] at free
    cases free

end

/-- The steps of the ramps reach no relay record and no relay request. -/
theorem stepRamps_relay (s : State) (c : CircuitId) : ((stepRamps s).circuits.get c).relay = (s.circuits.get c).relay ∧
    ((stepRamps s).circuits.get c).request = (s.circuits.get c).request := by
  refine foldl_kept (P := fun v => (v.circuits.get c).relay = (s.circuits.get c).relay ∧
    (v.circuits.get c).request = (s.circuits.get c).request) (fun v r kept => ?_) s.ramps s ⟨rfl, rfl⟩
  unfold stepRamp
  split
  · exact kept
  · obtain ⟨relay, request⟩ := r.moveCircuit_relay r.step (v.settings.circuits.get c) (v.circuits.get c)
    rw [changeCircuits_get, relay, request]
    exact kept

/-- A relay's time since the last change is all that the passing of time reaches. -/
theorem passTime_circuit (s : State) (c : CircuitId) :
    (passTime s).circuits.get c = { s.circuits.get c with relay := (s.circuits.get c).relay.passTime } :=
  Table.get_map _ _ _

/-- The relay request of a tick, and what the sequencer makes of it (R123, R133, R158). -/
theorem tick_relay (s : State) (c : CircuitId) :
    let x := (serve (runTick s)).circuits.get c
    x.request = requestAt (s.settings.circuits.get c) x.level (s.circuits.get c).request ∧
    x.relay = (s.circuits.get c).relay.passTime.hand (s.settings.circuits.get c) (mainsLocked s) x.request := by
  obtain ⟨relay, request⟩ := stepRamps_relay (passTime s) c
  rw [passTime_circuit] at relay request
  intro x
  simp only [x, serve_circuits, runTick_circuit, Circuit.convert, Circuit.fadeStep_relay, Circuit.fadeStep_request, relay,
    request, and_self]

theorem requestAt_eq (cs : CircuitSettings) (level : Nat) (previous : Bool) :
    requestAt cs level previous = match cs.law with
      | .linear | .square => false
      | .switched => if cs.onThreshold ≤ level then true
        else if cs.offThreshold ≤ cs.onThreshold ∧ cs.offThreshold ≤ level then previous
        else false := by
  unfold requestAt switchedRequest
  cases cs.law with
  | linear => rfl
  | square => rfl
  | switched =>
    dsimp only
    by_cases on : cs.onThreshold ≤ level
    · rw [if_pos on, if_pos on]
    · rw [if_neg on, if_neg on]
      by_cases reversed : cs.onThreshold < cs.offThreshold
      · rw [if_pos reversed, if_neg (by omega)]
      · rw [if_neg reversed]
        by_cases below : level < cs.offThreshold
        · rw [if_pos below, if_neg (by omega)]
        · rw [if_neg below, if_pos (by omega)]

/-! ## The refresh frame (R165, R190) -/

theorem checkByte_sum (l : List Byte) : (l ++ [checkByte l]).foldl (· + ·) 0 = (0 : Byte) := by
  rw [List.foldl_append]
  simp [checkByte]

theorem Table.items_map {α β : Type} {n : Nat} (t : Table α n) (f : α → β) :
    t.items.map f = (List.finRange n).map fun i => f (t.get i) := by
  refine List.ext_getElem (by simp [t.size]) fun i h _ => ?_
  simp [Table.get_eq_getElem]

/-- The refresh frame that a tick starts: 131 characters, whose sum behind the start code is a multiple of 256. -/
theorem refreshFrame_eq (s : State) : ∃ check : Byte,
    refreshFrame s = 0xA5 :: s.frameCount :: ((List.finRange 128).map fun c => BitVec.ofNat 8 (s.circuits.get c).output) ++ [check] ∧
      (refreshFrame s).length = 131 ∧ (refreshFrame s).tail.foldl (· + ·) 0 = (0 : Byte) := by
  unfold refreshFrame
  rw [Table.items_map]
  exact ⟨_, rfl, by simp, checkByte_sum _⟩

/-- FADE_END is the tick at which the record that the ramps left has one step to go (R121). -/
theorem fadeEnd_tick {s : State} {c : CircuitId} {f : Fade} (running : s.power = .running)
    (fade : ((stepRamps s).circuits.get c).fade = some f) (last : f.steps ≤ f.count + 1) :
    exec (.fadeEnd c) s = .next (serve (runTick s)) ∧ ((serve (runTick s)).circuits.get c).level = f.target ∧
      ((serve (runTick s)).circuits.get c).fade = none := by
  obtain ⟨-, level, record⟩ := tick_circuit s c
  refine ⟨eventIf_of_possible (p := fadeEndsAt c) running (by simp [fadeEndsAt, fade, last]), ?_, ?_⟩
  · rw [level, Circuit.fadeStep_of_last fade last]
  · rw [record, Circuit.fadeStep_of_last fade last]

/-- Settles O29: the relays by the sequencer's table, the circuits by their fade steps, the frame by its check, the rest by
what a tick leaves alone. -/
theorem tickStepsFadesAndStartsTheFrame : Obligations.TickStepsFadesAndStartsTheFrame := by
  intro s running
  refine ⟨serve (runTick s), tick_running running, ?_, ⟨_, rfl, runTick_only s⟩, fun sound c => ?_, fun c => ?_, fun c => ?_,
    fun none => ⟨fun c => ?_, fun c f fade last => ?_⟩, ?_⟩
  · rw [serve_frameCount, runTick_frame]
  · intro cs old x
    obtain ⟨-, relay⟩ := tick_relay s c
    have ok : old.passTime.Sound cs (mainsLocked s) := ⟨(sound.relays c).afterDwell, (sound.relays c).atCrossing⟩
    refine ⟨fun same => ?_, fun other dwell => ?_, fun other ended align locked => ?_, fun other ended now => ?_⟩
    · have handed : x.relay = _ := relay.trans (Relay.hand_same _ same)
      rw [handed]
      rfl
    · have handed : x.relay = _ := relay.trans (Relay.hand_during_dwell ok other dwell)
      rw [handed]
      rfl
    · have handed : x.relay = _ := relay.trans (Relay.hand_at_crossing ok other ended align (decide_eq_true locked))
      rw [handed]
      rfl
    · exact relay.trans (Relay.hand_at_once ok other ended (now.imp_right fun h => decide_eq_false h))
  · intro cs x
    obtain ⟨request, -⟩ := tick_relay s c
    refine ⟨(tick_output s c).trans ?_, request.trans (requestAt_eq _ _ _)⟩
    unfold outputOf
    rfl
  · obtain ⟨claims, level, record⟩ := tick_circuit s c
    exact ⟨claims, level, record, fun f fade last => fadeEnd_tick running fade last⟩
  · obtain ⟨claims, level, record⟩ := tick_circuit s c
    rw [stepRamps_none none] at claims level record
    exact ⟨level, record, claims⟩
  · exact fadeEnd_tick running (by rw [stepRamps_none none]; exact fade) last
  · obtain ⟨check, frame, size, sum⟩ := refreshFrame_eq (stepCircuits (stepRamps (passTime s)))
    have count : (stepCircuits (stepRamps (passTime s))).frameCount = s.frameCount := by
      unfold stepCircuits changeCircuits
      rw [stepRamps_frame]
      rfl
    rw [count] at frame
    refine ⟨check, ?_⟩
    rw [serve_refresh, serve_circuits]
    exact ⟨congrArg some frame, size, sum⟩

end Sys2Proof.Machine

/-! PROOFS. No request of the host but a configuration write or a read of it places a claim of class EGRESS or LOCAL (R110,
R182, R183). -/

namespace Sys2Proof.Machine

/-- Every claim of class EGRESS or LOCAL was there before, unchanged. -/
def AddsNoGuarded (s t : State) : Prop :=
  ∀ n, ∀ cl ∈ (t.circuits.get n).claims, cl.cls = .egress ∨ cl.cls = .loc → cl ∈ (s.circuits.get n).claims

theorem AddsNoGuarded.of_circuits {s t : State} (same : t.circuits = s.circuits) : AddsNoGuarded s t :=
  fun n cl here _ => by rwa [same] at here

theorem AddsNoGuarded.refl (s : State) : AddsNoGuarded s s := .of_circuits rfl

theorem AddsNoGuarded.trans {s t u : State} (h : AddsNoGuarded s t) (k : AddsNoGuarded t u) : AddsNoGuarded s u :=
  fun n cl here guarded => h n cl (k n cl here guarded) guarded

/-! ## Placements and withdrawals -/

/-- A claim of a class that the host may name is neither EGRESS nor LOCAL. -/
theorem not_guarded_of_ofHost {cls : ClaimClass} (host : cls.ofHost = true) : ¬ (cls = .egress ∨ cls = .loc) :=
  fun guarded => (ofHost_iff cls).mp host guarded.symm

theorem place_addsNoGuarded (c : CircuitId) {n : Claim} (host : n.cls.ofHost = true) (fade : Nat) (s : State) :
    AddsNoGuarded s (place c n fade s) := by
  rcases place_circuits c n fade s with same | ⟨m, placed, circuits⟩
  · exact .of_circuits same
  · intro k cl here guarded
    rw [circuits, Table.get_set] at here
    split at here
    · next at_ =>
      subst at_
      rw [Circuit.retarget_claims] at here
      rcases mem_placed placed here with rfl | old
      · exact absurd guarded (not_guarded_of_ofHost host)
      · exact old
    · exact here

theorem Circuit.withdraw_claims_sub (cs : CircuitSettings) (k : Key) (fade : Nat) (c : Circuit) :
    ∀ cl ∈ (c.withdraw cs k fade).claims, cl ∈ c.claims := by
  unfold Circuit.withdraw
  split
  · rw [Circuit.retarget_claims]
    exact fun cl here => (mem_dropKey.mp here).1
  · exact fun cl here => here

theorem withdraw_addsNoGuarded (c : CircuitId) (k : Key) (fade : Nat) (s : State) : AddsNoGuarded s (withdraw c k fade s) := by
  intro n cl here _
  simp only [withdraw, State.setCircuit, Table.get_set] at here
  split at here
  · next at_ => exact at_ ▸ Circuit.withdraw_claims_sub _ _ _ _ cl here
  · exact here

theorem withdrawEverywhere_addsNoGuarded (k : Key) (fade : Nat) (s : State) :
    AddsNoGuarded s (withdrawEverywhere k fade s) := by
  intro n cl here _
  rw [withdrawEverywhere_get] at here
  exact Circuit.withdraw_claims_sub _ _ _ _ cl here

theorem warmRestart_addsNoGuarded (s : State) : AddsNoGuarded s (warmRestart s) := by
  intro n cl here guarded
  rw [(warmRestart_core s).circuits, show s.restarting.circuits.get n = _ from Table.get_zipWith _ _ _ _] at here
  rw [List.mem_singleton.mp here] at guarded
  exact absurd guarded (not_guarded_of_ofHost (cls := .base) rfl)

/-! ## The requests -/

theorem enqueue_sameParts (e : Entry) (s : State) :
    (enqueue e s).settings = s.settings ∧ (enqueue e s).circuits = s.circuits := by
  unfold enqueue
  split <;> exact ⟨rfl, rfl⟩

theorem receiveEntry_sameParts (e : Entry) (s : State) :
    (receiveEntry e s).settings = s.settings ∧ (receiveEntry e s).circuits = s.circuits := by
  cases e with
  | damaged => exact enqueue_sameParts _ s
  | request k p =>
    obtain ⟨settings, circuits⟩ := enqueue_sameParts (.request k p)
      (setSilence (silenceStart s.settings.general.silenceTimeout) s)
    have core := (setSilence_frame (silenceStart s.settings.general.silenceTimeout) s).core
    exact ⟨settings.trans core.settings, circuits.trans core.circuits⟩

/-- A relation that holds across what the host may do to the circuits: place a claim of a class that it may name, and withdraw
claims. -/
structure KeptByHost (R : State → State → Prop) : Prop where
  trans : ∀ {s t u}, R s t → R t u → R s u
  same : ∀ {s t : State}, t.settings = s.settings → t.circuits = s.circuits → R s t
  place : ∀ c n fade s, n.cls.ofHost = true → R s (place c n fade s)
  withdraw : ∀ c k fade s, R s (withdraw c k fade s)
  withdrawEverywhere : ∀ k fade s, R s (withdrawEverywhere k fade s)

section
variable {R : State → State → Prop}

theorem KeptByHost.refl (K : KeptByHost R) (s : State) : R s s := K.same rfl rfl

theorem KeptByHost.zones (K : KeptByHost R) {s t : State} (h : OnlyZones s t) : R s t := K.same h.core.settings h.core.circuits

theorem KeptByHost.flags (K : KeptByHost R) (v : BitVec 8) (s : State) : R s (changeFlags v s) :=
  K.trans (t := { s with flags := v }) (K.same rfl rfl) (K.zones (reevaluateWhere_frame _ _))

theorem KeptByHost.placeScene (K : KeptByHost R) (sc : SceneId) {cls : ClaimClass} (host : cls.ofHost = true)
    (zone : Option ZoneId) (fade : Option Nat) (s : State) : R s (placeScene sc cls zone fade s) :=
  foldl_frame K.refl K.trans (fun v (e : SceneEntry) => K.place e.circuit
    { owner := .scene sc, cls := cls, level := e.level, zone := zone } _ v host) _ s

theorem KeptByHost.link (K : KeptByHost R) (s : State) : KeptByLink (R s) where
  serve v h := K.trans h (K.same (serve_settings v) (serve_circuits v))
  receive e v h := K.trans h (K.same (receiveEntry_sameParts e v).1 (receiveEntry_sameParts e v).2)
  unqueue _ h := K.trans h (K.same rfl rfl)
  reply _ _ h := K.trans h (K.same rfl rfl)

theorem KeptByHost.request (K : KeptByHost R) {k : Byte} {carry : List Byte → State → Answer} {p : List Byte} (s : State)
    (each : ∀ v, R v (carry p v).state) : Gives (R s) (request k carry p s) :=
  request_gives (K.link s) (K.refl s) fun v h => K.trans h (each v)

/-- Such a relation holds across each request but a configuration write and a RESTART. -/
theorem KeptByHost.exec (K : KeptByHost R) {c : Instr} {k : Byte} {p : List Byte} (named : requestOf c = some (k, p))
    (no_write : k.toNat < 0x30 ∨ 0x40 ≤ k.toNat) (no_restart : ∀ p, c ≠ .restart p) (s : State) :
    Gives (R s) (exec c s) := by
  cases c with
  | hello p =>
    refine K.request s fun v => ?_
    unfold carryHello; split <;> exact K.same rfl rfl
  | status p =>
    refine K.request s fun v => ?_
    unfold carryStatus; split <;> exact K.same rfl rfl
  | cause p =>
    refine K.request s fun v => ?_
    unfold carryCause; split <;> exact K.same rfl rfl
  | save p =>
    refine K.request s fun v => ?_
    unfold carrySave; split
    · exact K.refl v
    · split <;> exact K.same rfl rfl
  | setFlags p =>
    refine K.request s fun v => ?_
    unfold carrySetFlags; split
    · exact K.refl v
    · exact K.flags _ v
  | force p =>
    refine K.request s fun v => ?_
    unfold carryForce; split
    · exact K.refl v
    · split
      · exact K.refl v
      · exact K.zones (forceZone_frame _ v)
  | release p =>
    refine K.request s fun v => ?_
    unfold carryRelease; split
    · exact K.refl v
    · split
      · exact K.refl v
      · exact K.zones (releaseZone_frame _ v)
  | setAnnunciator p =>
    refine K.request s fun v => ?_
    unfold carrySetAnnunciator; split <;> exact K.same rfl rfl
  | recallRequest p =>
    refine K.request s fun v => ?_
    unfold carryRecall; split
    · exact K.refl v
    · split
      · split
        · next host => exact K.placeScene _ host _ _ v
        · exact K.refl v
      all_goals exact K.refl v
  | drop p =>
    refine K.request s fun v => ?_
    unfold carryDrop; split
    · exact K.refl v
    · split
      · split
        · exact K.withdrawEverywhere _ _ v
        · exact K.refl v
      all_goals exact K.refl v
  | levelRequest p =>
    refine K.request s fun v => ?_
    unfold carryLevel; split
    · exact K.refl v
    · split
      · split
        · next host => exact K.place _ (remoteClaim _ _) _ v host
        · exact K.refl v
      all_goals exact K.refl v
  | clear p =>
    refine K.request s fun v => ?_
    unfold carryClear; split
    · exact K.refl v
    · split
      · split
        · exact K.withdraw _ _ _ v
        · exact K.refl v
      all_goals exact K.refl v
  | dropRestart p =>
    refine K.request s fun v => ?_
    unfold carryDropRestart; split
    · exact K.refl v
    · exact K.withdrawEverywhere _ _ v
  | queryCircuit p =>
    refine K.request s fun v => ?_
    unfold carryQueryCircuit; split
    · exact K.refl v
    · split <;> exact K.refl v
  | queryScene p =>
    refine K.request s fun v => ?_
    unfold carryQueryScene; split
    · exact K.refl v
    · split <;> exact K.refl v
  | queryZone p =>
    refine K.request s fun v => ?_
    unfold carryQueryZone; split
    · exact K.refl v
    · split <;> exact K.refl v
  | queryStation p =>
    refine K.request s fun v => ?_
    unfold carryQueryStation; split
    · exact K.refl v
    · split
      · dsimp only [done]
        split <;> exact K.same rfl rfl
      all_goals exact K.refl v
  | queryInputs p =>
    refine K.request s fun v => ?_
    unfold carryQueryInputs; split <;> exact K.refl v
  | getInput p =>
    refine K.request s fun v => ?_
    unfold carryGetInput; split
    · exact K.refl v
    · split <;> exact K.refl v
  | getLadder p =>
    refine K.request s fun v => ?_
    unfold carryGetLadder; split
    · exact K.refl v
    · split <;> exact K.refl v
  | getStation p =>
    refine K.request s fun v => ?_
    unfold carryGetStation; split
    · exact K.refl v
    · split <;> exact K.refl v
  | getBinding p =>
    refine K.request s fun v => ?_
    unfold carryGetBinding; split
    · exact K.refl v
    · split <;> exact K.refl v
  | getScene p =>
    refine K.request s fun v => ?_
    unfold carryGetScene; split
    · exact K.refl v
    · split <;> exact K.same rfl rfl
  | getCircuit p =>
    refine K.request s fun v => ?_
    unfold carryGetCircuit; split
    · exact K.refl v
    · split <;> exact K.refl v
  | getZone p =>
    refine K.request s fun v => ?_
    unfold carryGetZone; split
    · exact K.refl v
    · split <;> exact K.same rfl rfl
  | getAnnunciator p =>
    refine K.request s fun v => ?_
    unfold carryGetAnnunciator; split
    · exact K.refl v
    · split <;> exact K.refl v
  | getGeneral p =>
    refine K.request s fun v => ?_
    unfold carryGetGeneral; split <;> exact K.refl v
  | restart p => exact absurd rfl (no_restart p)
  | _ => exact absurd no_write (by cases named <;> decide)

end

theorem addsNoGuarded_keptByHost : KeptByHost AddsNoGuarded where
  trans := .trans
  same _ circuits := .of_circuits circuits
  place c _ fade s host := place_addsNoGuarded c host fade s
  withdraw := withdraw_addsNoGuarded
  withdrawEverywhere := withdrawEverywhere_addsNoGuarded

/-- Each request of a kind below 30h adds no claim of class EGRESS or LOCAL. -/
theorem hostRequest_addsNoGuarded {c : Instr} {k : Byte} {p : List Byte} (named : requestOf c = some (k, p))
    (low : k.toNat < 0x30) (s : State) : Gives (AddsNoGuarded s) (exec c s) := by
  by_cases restarts : ∃ p, c = .restart p
  · obtain ⟨p, rfl⟩ := restarts
    refine addsNoGuarded_keptByHost.request s fun v => ?_
    unfold carryRestart; split
    · exact .refl v
    · split
      · exact .refl v
      · exact warmRestart_addsNoGuarded v
  · exact addsNoGuarded_keptByHost.exec named (.inl low) (fun p is => restarts ⟨p, is⟩) s

/-- Settles O24: what the request gives adds no claim of class EGRESS or LOCAL. -/
theorem hostRequestsPlaceNoEgressClaim : Obligations.HostRequestsPlaceNoEgressClaim :=
  fun _ _ _ s t named low given => hostRequest_addsNoGuarded named low s t given

end Sys2Proof.Machine

/-! PROOFS. The hold timer's expiry, and what each action of a binding does (R46, R69 to R79, R125). -/

namespace Sys2Proof.Machine

/-! ## The hold timer (R46) -/

theorem holdTimerExpiry_of_down {src : Source} {s : State} (running : s.power = .running)
    (down : (s.tracker src).state = .down) (timer : (s.tracker src).timer.isSome = true) :
    exec (.holdTimerExpiry src) s = .next (serve (expireHold src s)) :=
  eventIf_of_possible (p := fun s => decide ((s.tracker src).state = .down) && (s.tracker src).timer.isSome) running
    (by simp [down, timer])

theorem holdTimerExpiry_of_held {src : Source} {s : State} (running : s.power = .running)
    (held : (s.tracker src).state = .held) : exec (.holdTimerExpiry src) s = .next s := by
  show execHoldTimerExpiry src s = _
  unfold execHoldTimerExpiry eventIf
  rw [whenRunning_of_running running]
  simp [held]

/-- The bindings are not reached by a tracker's record, so neither is how many match. -/
theorem AtMostOneMatches.setTracker {src other : Source} {trg : Trigger} {s : State} (h : AtMostOneMatches src trg s)
    (v : Tracker) : AtMostOneMatches src trg (s.setTracker other v) := by
  unfold AtMostOneMatches
  rw [State.setTracker_settings]
  exact h

/-! ## Claims that an action takes away (R70, R73, R75) -/

/-- The claims of a key are those of its owner and its class. -/
theorem key_eq_iff (cl : Claim) (owner : Owner) (cls : ClaimClass) :
    decide (cl.key = { owner := owner, cls := cls }) = (decide (cl.owner = owner) && decide (cl.cls = cls)) := by
  simp [Claim.key]

/-- A withdrawal takes the claims of the key and, where there was one, retargets the circuit (R102, R105). -/
theorem Circuit.withdraw_losing (cs : CircuitSettings) (owner : Owner) (cls : ClaimClass) (fade : Nat) (c : Circuit) :
    c.withdraw cs { owner := owner, cls := cls } fade =
      c.losing (fun cl => decide (cl.owner = owner) && decide (cl.cls = cls)) cs.rest fade := by
  have held : holdsKey { owner := owner, cls := cls } c.claims =
      c.claims.any fun cl => decide (cl.owner = owner) && decide (cl.cls = cls) := by
    unfold holdsKey
    simp only [key_eq_iff]
  unfold Circuit.withdraw Circuit.losing
  rw [held, dropKey_eq_filter]
  rfl

theorem Circuit.clearZone_losing (cs : CircuitSettings) (z : ZoneId) (fade : Nat) (c : Circuit) :
    c.clearZone cs z fade = c.losing (fun cl => decide (cl.cls = .loc) && decide (cl.zone = some z)) cs.rest fade := rfl

theorem withdrawEverywhere_losing (owner : Owner) (cls : ClaimClass) (fade : Nat) (s : State) :
    withdrawEverywhere { owner := owner, cls := cls } fade s =
      { s with circuits := (withdrawEverywhere { owner := owner, cls := cls } fade s).circuits } ∧
    ∀ n, (withdrawEverywhere { owner := owner, cls := cls } fade s).circuits.get n =
      (s.circuits.get n).losing (fun cl => decide (cl.owner = owner) && decide (cl.cls = cls)) (s.settings.circuits.get n).rest
        fade :=
  ⟨rfl, fun n => (withdrawEverywhere_get _ _ _ n).trans (Circuit.withdraw_losing _ _ _ _ _)⟩

/-- A scene is held where some circuit holds a claim of it and the class (R71). -/
theorem sceneHeld_iff (sc : SceneId) (cls : ClaimClass) (s : State) : sceneHeld sc cls s = true ↔
    ∃ n, ((s.circuits.get n).claims.any fun cl => decide (cl.owner = .scene sc) && decide (cl.cls = cls)) = true := by
  unfold sceneHeld holdsKey
  rw [Table.any_items]
  simp only [key_eq_iff]

/-! ## One flag (R76 to R78, R137) -/

theorem withFlag_bit (flags : BitVec 8) (f g : FlagId) (v : Bool) :
    (withFlag flags f v).getLsbD g.val = if g = f then v else flags.getLsbD g.val := by
  have same : f.val = g.val ↔ g = f := ⟨fun h => (Fin.ext h).symm, fun h => h ▸ rfl⟩
  cases v with
  | true =>
    simp only [withFlag, if_true, BitVec.getLsbD_or, BitVec.getLsbD_twoPow, f.isLt, decide_true, Bool.true_and]
    by_cases h : g = f <;> simp [h, same]
  | false =>
    simp only [withFlag, Bool.false_eq_true, if_false, BitVec.getLsbD_and, BitVec.getLsbD_not, BitVec.getLsbD_twoPow, f.isLt,
      g.isLt, decide_true, Bool.true_and]
    by_cases h : g = f <;> simp [h, same]

theorem withFlag_self {flags : BitVec 8} {f : FlagId} {v : Bool} (same : flags.getLsbD f.val = v) :
    withFlag flags f v = flags := by
  refine BitVec.eq_of_getLsbD_eq fun i hi => ?_
  refine (withFlag_bit flags f ⟨i, hi⟩ v).trans ?_
  split
  · next h =>
    subst h
    exact same.symm
  · rfl

/-- A flag that changes re-evaluates the zones that mask it, and no other. -/
theorem changeOneFlag (f : FlagId) (v : Bool) (s : State) :
    let u := changeFlags (withFlag s.flags f v) s
    u = { s with flags := u.flags, zones := u.zones, ramps := u.ramps, reports := u.reports, lost := u.lost } ∧
    (s.flags.getLsbD f.val = v → u = s) ∧ u.flags.getLsbD f.val = v ∧
    (∀ g : FlagId, g ≠ f → u.flags.getLsbD g.val = s.flags.getLsbD g.val) ∧
    (∀ z, (s.settings.zones.get z).mask.getLsbD f.val = true → s.flags.getLsbD f.val ≠ v →
      ((u.zones.get z).state = .held ↔ called u z = true)) ∧
    (∀ z, (s.settings.zones.get z).mask.getLsbD f.val = false → u.zones.get z = s.zones.get z) := by
  intro u
  have flags : u.flags = withFlag s.flags f v := changeFlags_flags _ _
  have bit (g : FlagId) : u.flags.getLsbD g.val = if g = f then v else s.flags.getLsbD g.val := flags ▸ withFlag_bit _ _ _ _
  have whole : u = reevaluateWhere (fun z => decide (∃ g : FlagId, (s.settings.zones.get z).mask.getLsbD g.val = true ∧
      (withFlag s.flags f v).getLsbD g.val ≠ s.flags.getLsbD g.val)) { s with flags := withFlag s.flags f v } :=
    changeFlags_eq _ _
  refine ⟨?_, fun same => ?_, by rw [bit, if_pos rfl], fun g other => by rw [bit, if_neg other], fun z masked new => ?_,
    fun z free => ?_⟩
  · rw [flags, whole]
    exact reevaluateWhere_frame _ { s with flags := withFlag s.flags f v }
  · rw [whole, withFlag_self same]
    simp only [ne_eq, not_true_eq_false, and_false, exists_false, decide_false]
    exact foldl_kept (P := fun w => w = s) (fun w _ e => e) _ s rfl
  · rw [whole]
    refine reevaluateWhere_held_iff (decide_eq_true ⟨f, masked, ?_⟩) _
    rw [withFlag_bit, if_pos rfl]
    exact new.symm
  · rw [whole]
    refine reevaluateWhere_unconcerned (decide_eq_false fun ⟨g, masked, new⟩ => ?_) _
    rw [withFlag_bit] at new
    split at new
    · next h => rw [← h, masked] at free; cases free
    · exact new rfl

/-! ## The actions (R69 to R79) -/

theorem sceneOff_losing (x : Binding) (sc : SceneId) (fade : Option Nat) (s : State) :
    actSceneOff x sc fade s = { s with circuits := (actSceneOff x sc fade s).circuits } ∧
    ∀ n, (actSceneOff x sc fade s).circuits.get n =
      (s.circuits.get n).losing (fun cl => decide (cl.owner = .scene sc) && decide (cl.cls = x.cls.claim))
        (s.settings.circuits.get n).rest (fade.getD (s.settings.scenes.get sc).offFade) :=
  withdrawEverywhere_losing _ _ _ s

/-- RAISE places the claims that lack (R74). -/
theorem placeMissing_eq (sc : SceneId) (cls : ClaimClass) (zone : ZoneId) (s : State) :
    placeMissing sc cls zone s = (s.settings.scenes.get sc).entries.foldl
      (fun v e => if (v.circuits.get e.circuit).claims.any fun cl => decide (cl.owner = .scene sc) && decide (cl.cls = cls) then v
        else place e.circuit
          { owner := .scene sc, cls := cls, level := (v.circuits.get e.circuit).level, zone := some zone } 0 v) s := by
  unfold placeMissing holdsKey
  simp only [key_eq_iff]

/-- Settles O19: the expiry is a dispatch of HOLD on the tracker it leaves; each action is the arbiter's, the zone unit's or
the ramp table's own operation. -/
theorem holdExpiryDispatchesAndActionsAct : Obligations.HoldExpiryDispatchesAndActionsAct := by
  refine ⟨fun src s running => ⟨fun down timer => ?_, holdTimerExpiry_of_held running⟩, fun b x s => ?_, fun r s table =>
    ⟨fun l1 q l2 split same => requestRamp_of_running table.ascending split same,
      fun fresh room => requestRamp_of_room table.ascending fresh room, requestRamp_of_full⟩⟩
  · intro held u
    refine ⟨holdTimerExpiry_of_down running down timer, ?_, fun other apart => ?_, expireHold_frame src s, fun lone => ?_⟩
    · rw [dispatch_tracker, State.tracker_setTracker_self]
    · rw [dispatch_tracker, State.tracker_setTracker_ne _ _ (fun e => apart (List.mem_singleton.mpr e.symm))]
    · exact (setTracker_frame _ _ _).trans (dispatch_lone (lone.setTracker held) _)
  intro u circuit scene owned on off ramp flag
  have acts : u = runAction b x s := rfl
  unfold runAction at acts
  clear_value u
  cases ha : x.action with rw [ha] at acts
  | sceneOn sc fade => exact acts
  | sceneOff sc fade => subst acts; exact sceneOff_losing x sc fade s
  | sceneToggle sc fade =>
    refine ⟨fun held => ?_, fun free => acts.trans (if_neg fun held => ?_)⟩
    · have off : u = actSceneOff x sc fade s := acts.trans (if_pos ((sceneHeld_iff sc x.cls.claim s).mpr held))
      clear acts
      subst off
      exact sceneOff_losing x sc fade s
    · obtain ⟨n, here⟩ := (sceneHeld_iff sc x.cls.claim s).mp held
      exact Bool.false_ne_true ((free n).symm.trans here)
  | level c l fade => exact acts
  | levelOff c fade => exact acts.trans (congrArg (s.setCircuit c) (Circuit.withdraw_losing _ _ _ _ _))
  | raise sc => exact acts.trans (congrArg (requestRamp _) (placeMissing_eq _ _ _ _))
  | lower sc => exact acts
  | zoneClear z fade => subst acts; exact ⟨rfl, fun n => (changeCircuits_get _ _ n).trans (Circuit.clearZone_losing _ _ _ _)⟩
  | flagSet f => subst acts; exact changeOneFlag f true s
  | flagClear f => subst acts; exact changeOneFlag f false s
  | flagToggle f => subst acts; exact changeOneFlag f _ s
  | holdForce z =>
    subst acts
    refine ⟨forceZone_of_on, fun free => ⟨forceZone_frame z s, (forceZone_of_off free).2⟩⟩
  | holdRelease z =>
    subst acts
    obtain ⟨-, ramps, zones⟩ := releaseZone_leaves (z := z) (s := s) (releaseTo_eq _ _ _)
    exact ⟨releaseZone_frame z s, ramps, zones⟩
  | reportOnly => exact acts

end Sys2Proof.Machine

/-! PROOFS. A dispatch: the matching bindings in slot order, those that run and those that are suppressed, what comes between two
of them, and the report (R37, R62 to R68, R85, R107, R148). -/

namespace Sys2Proof.Machine

/-! ## The matching bindings in order (R63) -/

/-- The bindings that match stand in ascending slot order. -/
theorem matching_ascending (src : Source) (trg : Trigger) (s : State) :
    ((matching src trg s).map (·.1)).Pairwise (· < ·) := by
  have sub : ∀ l : List (SlotId × Option Binding), ((l.filterMap fun bx =>
      match bx.2 with
      | some x => if x.enabled && decide (x.source = src) && decide (x.trigger = trg) then some (bx.1, x) else none
      | none => none).map (·.1)).Sublist (l.map (·.1)) := by
    intro l
    induction l with
    | nil => exact List.Sublist.slnil
    | cons a l ih =>
      rw [List.filterMap_cons, List.map_cons]
      split
      · exact ih.cons _
      · next e =>
        split at e
        · split at e
          · cases e
            exact ih.cons_cons _
          · cases e
        · cases e
  have ordered : (s.settings.bindings.indexed.map (·.1)).Pairwise (· < ·) := by
    unfold Table.indexed
    rw [List.map_fst_zip (by rw [List.length_finRange, s.settings.bindings.size])]
    exact List.pairwise_lt_finRange _
  exact ordered.sublist (sub _)

theorem matching_inOrder (src : Source) (trg : Trigger) (s : State) : MatchingInOrder src trg s (matching src trg s) :=
  ⟨matching_ascending src trg s, fun _ _ => mem_matching⟩

/-- A list in slot order is fixed by its members. -/
theorem MatchingInOrder.unique {src : Source} {trg : Trigger} {s : State} {l : List (SlotId × Binding)}
    (h : MatchingInOrder src trg s l) : l = Machine.matching src trg s := by
  have sorted {m : List (SlotId × Binding)} (k : (m.map (·.1)).Pairwise (· < ·)) : m.Pairwise fun a b => a.1 < b.1 :=
    List.pairwise_map.mp k
  have once {m : List (SlotId × Binding)} (k : (m.map (·.1)).Pairwise (· < ·)) : m.Nodup :=
    List.Nodup.of_map _ (List.Pairwise.imp (fun lt => ne_of_lt lt) k)
  have same : l.Perm (Machine.matching src trg s) :=
    (List.perm_ext_iff_of_nodup (once h.ascending) (once (matching_ascending src trg s))).mpr fun bx =>
      (h.matching bx.1 bx.2).trans mem_matching.symm
  exact same.eq_of_pairwise (fun a b _ _ lt gt => absurd (lt_trans lt gt) (lt_irrefl _)) (sorted h.ascending)
    (sorted (matching_ascending src trg s))

/-! ## The bindings reached, one after another (R63 to R65) -/

section
variable (gap : State → State) (sup : List ZoneId)

theorem afterBindings_append (before : List (SlotId × Binding)) (bx : SlotId × Binding) (s : State) :
    afterBindings gap sup (before ++ [bx]) s = acted sup (reachedAfter gap sup before s) bx := by
  cases before with
  | nil => rfl
  | cons a before => simp [afterBindings, reachedAfter]

/-- The last binding of a list is reached after what the ones before it leave. -/
theorem reachBindings_append (before : List (SlotId × Binding)) (bx : SlotId × Binding) (d : Dispatching) :
    reachBindings gap sup (before ++ [bx]) d =
      reachBinding sup { reachBindings gap sup before d with state := reachedAfter gap sup before d.state } bx := by
  cases before with
  | nil => rfl
  | cons a before =>
    have reached := reachBindings_state gap sup (a :: before) d
    simp only [reachBindings, List.cons_append, List.foldl_append, List.foldl_cons, List.foldl_nil, reachLater,
      reachedAfter] at reached ⊢
    rw [reached]

theorem reachBinding_of_silenced {d : Dispatching} {bx : SlotId × Binding} (h : Silenced sup bx.2 d.state) :
    reachBinding sup d bx = { d with held := true } := by
  refine if_pos ?_
  simpa [suppressed] using h

theorem reachBinding_of_free {d : Dispatching} {bx : SlotId × Binding} (h : ¬ Silenced sup bx.2 d.state) :
    reachBinding sup d bx = { d with state := runAction bx.1 bx.2 d.state, ran := true } := by
  refine if_neg fun held => h ?_
  simpa [suppressed] using held

/-- A splitting of a list at one of its bindings is at the last, or in the part before the last. -/
theorem exists_split_append (P : List (SlotId × Binding) → SlotId → Binding → Prop) (l : List (SlotId × Binding))
    (bx : SlotId × Binding) :
    (∃ before b x rest, l ++ [bx] = before ++ (b, x) :: rest ∧ P before b x) ↔
      (∃ before b x rest, l = before ++ (b, x) :: rest ∧ P before b x) ∨ P l bx.1 bx.2 := by
  constructor
  · rintro ⟨before, b, x, rest, split, holds⟩
    rcases List.eq_nil_or_concat' rest with rfl | ⟨rest, last, rfl⟩
    · obtain ⟨rfl, same⟩ := List.append_inj' split rfl
      cases same
      exact .inr holds
    · rw [← List.cons_append, ← List.append_assoc] at split
      obtain ⟨rfl, -⟩ := List.append_inj' split rfl
      exact .inl ⟨before, b, x, rest, rfl, holds⟩
  · rintro (⟨before, b, x, rest, rfl, holds⟩ | holds)
    · exact ⟨before, b, x, rest ++ [bx], by simp, holds⟩
    · exact ⟨l, bx.1, bx.2, [], rfl, holds⟩

/-- What a dispatch records of its bindings: whether some ran, and whether some were suppressed (R65, R67). -/
theorem reachBindings_flags (l : List (SlotId × Binding)) (s : State) :
    let d := reachBindings gap sup l { state := s, ran := false, held := false }
    (d.ran = true ↔ SomeRuns gap sup l s) ∧ (d.held = true ↔ SomeIsSuppressed gap sup l s) := by
  induction l using List.reverseRecOn with
  | nil => simp [reachBindings, SomeRuns, SomeIsSuppressed]
  | append_singleton l bx ih =>
    obtain ⟨ran, held⟩ := ih
    intro d
    have runs : SomeRuns gap sup (l ++ [bx]) s ↔ SomeRuns gap sup l s ∨ ¬ Silenced sup bx.2 (reachedAfter gap sup l s) :=
      exists_split_append (fun before _ x => ¬ Silenced sup x (reachedAfter gap sup before s)) l bx
    have stops : SomeIsSuppressed gap sup (l ++ [bx]) s ↔
        SomeIsSuppressed gap sup l s ∨ Silenced sup bx.2 (reachedAfter gap sup l s) :=
      exists_split_append (fun before _ x => Silenced sup x (reachedAfter gap sup before s)) l bx
    have last : d = reachBinding sup _ bx := reachBindings_append gap sup l bx _
    rw [last, runs, stops, ← ran, ← held]
    by_cases silent : Silenced sup bx.2 (reachedAfter gap sup l s)
    · rw [reachBinding_of_silenced sup silent]
      exact ⟨(or_iff_left (not_not_intro silent)).symm, iff_of_true rfl (.inr silent)⟩
    · rw [reachBinding_of_free sup silent]
      exact ⟨iff_of_true rfl (.inr silent), (or_iff_left silent).symm⟩

/-- Bindings of captured zones do nothing, so only what comes between them does (R64). -/
theorem afterBindings_of_captured {l : List (SlotId × Binding)} (captured : ∀ bx ∈ l, bx.2.cls = .loc ∧ bx.2.zone ∈ sup)
    (s : State) : afterBindings gap sup l s = l.tail.foldl (fun v _ => gap v) s := by
  have still (bx : SlotId × Binding) (h : bx ∈ l) (v : State) : acted sup v bx = v :=
    if_pos ⟨(captured bx h).1, .inl (captured bx h).2⟩
  cases l with
  | nil => rfl
  | cons a l =>
    rw [afterBindings, still a List.mem_cons_self, List.tail_cons]
    exact List.foldl_ext _ _ _ fun v bx h => still bx (List.mem_cons_of_mem _ h) _

end

/-! ## The dispatch whole (R66 to R68) -/

/-- The report setting of a source is none that a dispatch reaches. -/
theorem OnlyBetween.reportsEvents {src : Source} {s t : State} (h : OnlyBetween src s t) (other : Source) :
    reportsEvents t other = Machine.reportsEvents s other := by
  rw [h.fields]
  cases other <;> rfl

theorem releaseRamps_actions (src : Source) (trg : Trigger) (s : State) : OnlyActions s (releaseRamps src trg s) := by
  unfold OnlyActions
  rw [releaseRamps_frame]

theorem matching_releaseRamps (src : Source) (trg : Trigger) (s : State) :
    matching src trg (releaseRamps src trg s) = matching src trg s := by
  unfold matching
  rw [releaseRamps_frame]

/-- A dispatch, by its stages: the ramps of a RELEASE, the bindings, the report, the override. -/
theorem dispatch_stages (src : Source) (trg : Trigger) (sup : List ZoneId) (s : State) :
    let start := releaseRamps src trg s
    let d := reachBindings (betweenBindings src) sup (matching src trg s) { state := start, ran := false, held := false }
    let reached := afterBindings (betweenBindings src) sup (matching src trg s) start
    dispatch src trg sup s = startOverride src d.held
      (if reportsEvents s src then raise (.event src trg (outcomeOf d.ran d.held)) reached else reached) := by
  intro start d reached
  have state : d.state = reached := reachBindings_state _ _ _ _
  have setting : reportsEvents d.state src = reportsEvents s src :=
    ((releaseRamps_actions src trg s).between.trans (reachBindings_frame sup _
      { state := start, ran := false, held := false })).reportsEvents src
  unfold dispatch dispatchWith
  dsimp only
  rw [matching_releaseRamps, ← setting, ← state]

theorem releaseRamps_eq (src : Source) (trg : Trigger) (s : State) :
    releaseRamps src trg s = if trg = .release then
      { s with ramps := s.ramps.filter fun r => !decide ((s.settings.bindings.get r.binding).map (·.source) = some src) }
    else s := by
  cases trg <;> rfl

theorem reportsEvents_eq (s : State) (src : Source) : reportsEvents s src = match src with
    | .contact i => (s.settings.inputs.get i).report
    | .ladder ch _ => (s.settings.ladders.get ch).report
    | .station a _ => (s.settings.stations.get a).report := by
  cases src <;> rfl

/-- An override starts at the button of a station where some binding was suppressed, and nowhere else (R37, R68). -/
theorem startOverride_of_held {a : StationId} {b : ButtonId} (s : State) :
    startOverride (.station a b) true s = s.setStation a
      { s.stations.get a with overrides := (s.stations.get a).overrides.set b (some 1500) } := rfl

theorem startOverride_of_none {src : Source} {held : Bool} (h : (∀ a b, src ≠ .station a b) ∨ held = false) (s : State) :
    startOverride src held s = s := by
  cases src with
  | contact i => rfl
  | ladder ch b => rfl
  | station a b =>
    rcases h with other | rfl
    · exact absurd rfl (other a b)
    · rfl

/-! ## What comes between two bindings (R64, R85, R107, R148) -/

/-- A command that comes just as it is does what it does on its own. -/
theorem comes_of_exec {src : Source} {c : Instr} {v : State} (as : execBetween src c v = exec c v) :
    exec c v = .next (comes src v c) := by
  obtain ⟨t, given⟩ := exec_completes c v
  rw [given, comes, as, given]

theorem comes_of_waits {src : Source} {c : Instr} {v : State} (as : execBetween src c v = waits v) : comes src v c = v := by
  rw [comes, as]
  rfl

theorem eventIf_congr {p : State → Bool} {f g : State → State} {s : State} (same : f s = g s) :
    eventIf p f s = eventIf p g s := by
  unfold eventIf whenRunning
  dsimp only
  rw [same]

/-- A good IDENT reply is one of the turn whose window is open. -/
theorem openTurn_of_identReply {r : BusReply} {s : State} {t : Turn} {x : Byte × Nat} (h : identReplyOf r s = some (t, x)) :
    openTurn s = some t := by
  unfold identReplyOf at h
  cases ho : openTurn s with
  | none => rw [ho] at h; cases h
  | some u =>
    cases hr : u.request with
    | poll p => simp [ho, hr] at h
    | ident =>
      simp only [ho, hr, Option.map_eq_some_iff, Prod.mk.injEq] at h
      obtain ⟨_, -, rfl, -⟩ := h
      rfl

/-- A turn at rest hands no release on, so it ends in a dispatch as it ends on its own. -/
theorem turnAtRest_exec {s : State} (rest : turnAtRest s = true) :
    (∀ r, exec (.identReply r) s = execIdentReplyBy releaseNothing r s) ∧
    (∀ r, exec (.badReply r) s = execBadReplyBy releaseNothing r s) ∧
    (∀ r, exec (.stationGoesMissing r) s = execStationGoesMissingBy releaseNothing r s) ∧
    exec .replyWindowClose s = execReplyWindowCloseBy releaseNothing s := by
  have fails (bad : Bool) : (match openTurn s with | some t => failTurnBy synthesizedRelease t bad s | none => s) =
      match openTurn s with | some t => failTurnBy releaseNothing t bad s | none => s := by
    cases h : openTurn s with
    | none => rfl
    | some t => exact failTurn_atRest t bad s (turnAtRest_idle rest h)
  refine ⟨fun r => ?_, fun r => ?_, fun r => ?_, ?_⟩
  rotate_left
  · show execBadReplyBy synthesizedRelease r s = _
    unfold execBadReplyBy
    exact eventIf_congr (fails true)
  · show execStationGoesMissingBy synthesizedRelease r s = _
    unfold execStationGoesMissingBy
    exact eventIf_congr (fails r.isSome)
  · show execReplyWindowCloseBy synthesizedRelease s = _
    unfold execReplyWindowCloseBy
    exact eventIf_congr (fails false)
  show execIdentReplyBy synthesizedRelease r s = _
  unfold execIdentReplyBy
  refine eventIf_congr ?_
  cases reply : identReplyOf r s with
  | none => rfl
  | some x =>
    obtain ⟨t, code, n⟩ := x
    refine identTurn_atRest t code n s (turnAtRest_idle rest (openTurn_of_identReply reply))

theorem channelAtRest_exec {ch : ChannelId} {s : State} (rest : channelAtRest ch s = true) (reading : Nat) :
    exec (.ladderFaultEntry ch reading) s = execLadderFaultEntryBy releaseNothing ch reading s :=
  eventIf_congr (enterFault_atRest ch s rest)

/-- A request that does not wait is taken while no other is being carried out, and one of a station's own only outside the
bus. -/
theorem execBetween_request {src : Source} {c : Instr} {k : Byte} {p : List Byte} {v : State}
    (named : requestOf c = some (k, p)) (comes : k ∉ waitingKinds) (free : v.carrying = false)
    (bus : ofStation src = false ∨ k ≠ 0x23) : execBetween src c v = exec c v := by
  have link : linkFree v = true := by simp [linkFree, free]
  cases c with
  | putBinding _ | restart _ | putInput _ | putLadder _ | putStation _ => cases named; exact absurd (by decide) comes
  | queryStation p =>
    cases named
    have outside : ofStation src = false := bus.resolve_right fun h => h rfl
    exact if_pos (by simp [link, busFree, outside])
  | hello _ | status _ | cause _ | save _ | setFlags _ | force _ | release _ | setAnnunciator _ | recallRequest _ | drop _
  | levelRequest _ | clear _ | dropRestart _ | queryCircuit _ | queryScene _ | queryZone _ | queryInputs _ | putScene _
  | putCircuit _ | putZone _ | putAnnunciator _ | putGeneral _ | getInput _ | getLadder _ | getStation _ | getBinding _
  | getScene _ | getCircuit _ | getZone _ | getAnnunciator _ | getGeneral _ => exact if_pos link
  | _ => cases named

/-- The requests of R62 and of the model's choice wait for the end of the dispatch. -/
theorem execBetween_waiting {src : Source} {c : Instr} {k : Byte} {p : List Byte} {v : State}
    (named : requestOf c = some (k, p)) (waiting : k ∈ waitingKinds) : execBetween src c v = waits v := by
  cases c with
  | putBinding _ | restart _ | putInput _ | putLadder _ | putStation _ => rfl
  | _ => cases named <;> exact absurd waiting (by decide)

theorem betweenBindings_eq (src : Source) (v : State) :
    let begun : State := { v with draws := v.draws + 1, ahead := if v.ahead = some v.reports.length then none else v.ahead }
    let ended := (Config.comesBetween v.draws).foldl (comes src) begun
    betweenBindings src v = { ended with
      ahead := if v.carrying = true ∧ ended.ahead = none then some ended.reports.length else ended.ahead } := by
  intro begun ended
  have freed : freeReports { v with draws := v.draws + 1 } = begun := by
    unfold freeReports
    by_cases h : v.ahead = some v.reports.length
    · exact (if_pos h).trans (by simp only [begun, if_pos h])
    · exact (if_neg h).trans (by simp only [begun, if_neg h])
  have kept : OnlyBetween src begun ended :=
    foldl_frame OnlyBetween.refl OnlyBetween.trans (fun _ c => comes_frame c) _ _
  have carrying : ended.carrying = v.carrying := kept.carrying
  unfold betweenBindings
  rw [freed]
  show holdReports ended = _
  unfold holdReports
  rw [← carrying]
  by_cases h : ended.carrying = true ∧ ended.ahead = none
  · rw [if_pos h, if_pos h]
  · rw [if_neg h, if_neg h]

/-- What each command does that comes between two bindings of a dispatch. -/
theorem comingsAct (src : Source) (v : State) (running : v.power = .running) :
    (let begun : State := { v with
        draws := v.draws + 1, ahead := if v.ahead = some v.reports.length then none else v.ahead }
      let ended := (Config.comesBetween v.draws).foldl (comes src) begun
      betweenBindings src v = { ended with
        ahead := if v.carrying = true ∧ ended.ahead = none then some ended.reports.length else ended.ahead }) ∧
    (∀ c, (∃ k p, requestOf c = some (k, p) ∧ k ∈ waitingKinds) ∨
        (∃ i raw, c = .contactSample i raw ∨ c = .changeAccepted i raw ∨ c = .settlingComplete i raw) ∨
        (∃ ch n, c = .ladderSample ch n ∨ c = .ladderDecodeChange ch n ∨ c = .ladderBaseline ch n) ∨
        (∃ r, c = .stateReply r) ∨ (∃ o, c = .holdTimerExpiry o) → comes src v c = v) ∧
    (∀ c k p, requestOf c = some (k, p) → k ∉ waitingKinds → v.carrying = false → ofStation src = false ∨ k ≠ 0x23 →
      exec c v = .next (comes src v c)) ∧
    (v.carrying = false → exec .damagedEntry v = .next (comes src v .damagedEntry) ∧
      ∀ k p, exec (.unknownKind k p) v = .next (comes src v (.unknownKind k p))) ∧
    comes src v .tick = serve (startRefresh (stepCircuits (stepRamps v))) ∧
    (∀ c, (∃ z, c = .releaseTimerExpiry z) ∨ (∃ n, c = .dwellEnd n) ∨ (∃ m, c = .zeroCrossing m ∨ c = .mainsLock m) ∨
        c = .mainsSilenceExpiry ∨ c = .silenceTimerExpiry ∨ c = .transmitFrameEnd ∨ c = .gapTimerExpiry ∨
        (∃ b e, c = .characterReceived b e) ∨ (∃ w, c = .saveEnd w) →
      exec c v = .next (comes src v c)) ∧
    (ofStation src = false → exec .replyWindowOpen v = .next (comes src v .replyWindowOpen) ∧
      ∀ a b, exec (.flash3OverrideEnd a b) v = .next (comes src v (.flash3OverrideEnd a b))) ∧
    (∀ c, (∃ r, c = .identReply r ∨ c = .badReply r) ∨ (∃ r, c = .stationGoesMissing r) ∨ c = .replyWindowClose →
      ofStation src = false → turnAtRest v = true → exec c v = .next (comes src v c)) ∧
    ∀ (ch : ChannelId) (n : Nat), ofLadder src = false → v.carrying = false →
      exec (.ladderRecovery ch n) v = .next (comes src v (.ladderRecovery ch n)) ∧
      (channelAtRest ch v = true → exec (.ladderFaultEntry ch n) v = .next (comes src v (.ladderFaultEntry ch n))) := by
  refine ⟨betweenBindings_eq src v, fun c waiting => ?_, fun c k p named kind free bus =>
    comes_of_exec (execBetween_request named kind free bus), fun free => ?_, ?_, fun c plain => ?_, fun bus => ?_,
    fun c turn bus rest => ?_, fun ch n sampler free => ?_⟩
  · rcases waiting with ⟨k, p, named, kind⟩ | ⟨i, raw, rfl | rfl | rfl⟩ | ⟨ch, n, rfl | rfl | rfl⟩ | ⟨r, rfl⟩ | ⟨o, rfl⟩
    · exact comes_of_waits (execBetween_waiting named kind)
    all_goals exact comes_of_waits rfl
  · have link : linkFree v = true := by simp [linkFree, free]
    exact ⟨comes_of_exec (if_pos link), fun k p => comes_of_exec (if_pos link)⟩
  · have ticks : execBetween src .tick v = .next (serve (levelTick v)) := event_of_running running
    rw [comes, ticks]
    rfl
  · rcases plain with ⟨z, rfl⟩ | ⟨n, rfl⟩ | ⟨m, rfl | rfl⟩ | rfl | rfl | rfl | rfl | ⟨b, e, rfl⟩ | ⟨w, rfl⟩
    all_goals exact comes_of_exec rfl
  · have outside : busFree src v = true := by simp [busFree, bus]
    exact ⟨comes_of_exec (if_pos outside), fun a b => comes_of_exec (if_pos outside)⟩
  · have outside : (busFree src v && turnAtRest v) = true := by simp [busFree, bus, rest]
    obtain ⟨ident, bad, missing, closes⟩ := turnAtRest_exec rest
    rcases turn with ⟨r, rfl | rfl⟩ | ⟨r, rfl⟩ | rfl
    · exact comes_of_exec ((if_pos outside).trans (ident r).symm)
    · exact comes_of_exec ((if_pos outside).trans (bad r).symm)
    · exact comes_of_exec ((if_pos outside).trans (missing r).symm)
    · exact comes_of_exec ((if_pos outside).trans closes.symm)
  · have outside : samplerFree src v = true := by simp [samplerFree, sampler, linkFree, free]
    exact ⟨comes_of_exec (if_pos outside),
      fun rest => comes_of_exec ((if_pos (by simp [outside, rest])).trans (channelAtRest_exec rest n).symm)⟩

/-! ## The two halves of a dispatch (R62 to R68) -/

/-- A dispatch whose one matching binding is suppressed, or that has none, reaches nothing but the ramps of a RELEASE, the report
and the override (R64, R65). -/
theorem silencedDispatch (src : Source) (trg : Trigger) (sup : List ZoneId) (s : State) (lone : AtMostOneMatches src trg s)
    (silent : ∀ b x, s.settings.bindings.get b = some x → x.enabled = true → x.source = src → x.trigger = trg →
      x.cls = .loc ∧ (x.zone ∈ sup ∨ (s.zones.get x.zone).state ≠ .free)) :
    let start := releaseRamps src trg s
    let matched := ∃ b x, s.settings.bindings.get b = some x ∧ x.enabled = true ∧ x.source = src ∧ x.trigger = trg
    (matched → dispatch src trg sup s = startOverride src true
      (if reportsEvents s src then raise (.event src trg .suppressed) start else start)) ∧
    (¬ matched → dispatch src trg sup s =
      if reportsEvents s src then raise (.event src trg .none) start else start) := by
  intro start matched
  have stages := dispatch_stages src trg sup s
  have zones : start.zones = s.zones := by
    simp only [start]
    rw [releaseRamps_frame]
  rcases matching_lone lone with none | ⟨⟨b, x⟩, one⟩
  · rw [none] at stages
    refine ⟨fun ⟨b, x, here⟩ => ?_, fun _ => stages.trans (startOverride_of_none (.inr rfl) _)⟩
    have := mem_matching.mpr here
    rw [none] at this
    cases this
  · have here : (b, x) ∈ matching src trg s := one ▸ List.mem_singleton_self _
    obtain ⟨stored, enabled, source, trigger⟩ := mem_matching.mp here
    have quiet : Silenced sup x start := by
      rw [Silenced, zones]
      exact silent b x stored enabled source trigger
    have reached := reachBinding_of_silenced sup (d := { state := start, ran := false, held := false }) (bx := (b, x)) quiet
    rw [one] at stages
    refine ⟨fun _ => stages.trans ?_, fun no => absurd ⟨b, x, stored, enabled, source, trigger⟩ no⟩
    simp only [reachBindings, List.foldl_nil, afterBindings]
    rw [reached, show acted sup start (b, x) = start from if_pos quiet]
    rfl

theorem startOverride_fields (src : Source) (held : Bool) (v : State) :
    (startOverride src held v).circuits = v.circuits ∧ (startOverride src held v).zones = v.zones ∧
      (startOverride src held v).flags = v.flags ∧ (startOverride src held v).ramps = v.ramps ∧
      (startOverride src held v).reports = v.reports := by
  cases src <;> cases held <;> exact ⟨rfl, rfl, rfl, rfl, rfl⟩

theorem told_fields (told : Bool) (r : Report) (v : State) :
    (if told then raise r v else v).circuits = v.circuits ∧ (if told then raise r v else v).zones = v.zones ∧
      (if told then raise r v else v).flags = v.flags ∧ (if told then raise r v else v).ramps = v.ramps := by
  cases told with
  | true => simp
  | false => exact ⟨rfl, rfl, rfl, rfl⟩

/-- The first half of O20: with the one binding that matches suppressed, nothing is reached but the ramps of a RELEASE, the
report and the override. -/
theorem silencedDispatch_leaves (src : Source) (trg : Trigger) (sup : List ZoneId) (s : State)
    (lone : AtMostOneMatches src trg s)
    (silent : ∀ b x, s.settings.bindings.get b = some x → x.enabled = true → x.source = src → x.trigger = trg →
      x.cls = .loc ∧ (x.zone ∈ sup ∨ (s.zones.get x.zone).state ≠ .free)) :
    let t := dispatch src trg sup s
    let matched := ∃ b x, s.settings.bindings.get b = some x ∧ x.enabled = true ∧ x.source = src ∧ x.trigger = trg
    t.circuits = s.circuits ∧ t.zones = s.zones ∧ t.flags = s.flags ∧ (∀ r ∈ t.ramps, r ∈ s.ramps) ∧
    (reportsEvents s src = true → s.settings.general.reportMask.getLsbD 0 = true → s.reports.length < 32 →
      (matched → t.reports = s.reports ++ [.event src trg .suppressed]) ∧
      (¬matched → t.reports = s.reports ++ [.event src trg .none])) ∧
    (∀ a b, src = .station a b → matched → (t.stations.get a).overrides.get b = some 1500) := by
  intro t matched
  obtain ⟨whenMatched, whenNone⟩ := silencedDispatch src trg sup s lone silent
  have began := releaseRamps_frame src trg s
  have ended : ∀ r ∈ (releaseRamps src trg s).ramps, r ∈ s.ramps := by
    rw [releaseRamps_eq]
    split
    · exact fun r h => (List.mem_filter.mp h).1
    · exact fun r h => h
  generalize releaseRamps src trg s = start at whenMatched whenNone began ended
  have raised (outcome : DispatchOutcome) (told : reportsEvents s src = true)
      (on : s.settings.general.reportMask.getLsbD 0 = true) (room : s.reports.length < 32) :
      (if reportsEvents s src then raise (.event src trg outcome) start else start).reports =
        s.reports ++ [.event src trg outcome] := by
    rw [if_pos told, raise_of_room (by rw [began]; exact room)]
    rw [began]
    exact congrArg (s.reports ++ ·) (if_pos on)
  have fields (outcome : DispatchOutcome) := told_fields (reportsEvents s src) (.event src trg outcome) start
  by_cases m : matched
  · have given : t = _ := whenMatched m
    obtain ⟨c1, z1, f1, r1, p1⟩ := startOverride_fields src true
      (if reportsEvents s src then raise (.event src trg .suppressed) start else start)
    obtain ⟨c2, z2, f2, r2⟩ := fields .suppressed
    rw [given]
    refine ⟨c1.trans (c2.trans ?_), z1.trans (z2.trans ?_), f1.trans (f2.trans ?_), fun r h => ended r ?_,
      fun told on room => ⟨fun _ => p1.trans (raised _ told on room), fun no => absurd m no⟩, fun a b e _ => ?_⟩
    · rw [began]
    · rw [began]
    · rw [began]
    · rwa [r1, r2] at h
    · subst e
      rw [startOverride_of_held]
      simp
  · have given : t = _ := whenNone m
    obtain ⟨c2, z2, f2, r2⟩ := fields .none
    rw [given]
    refine ⟨c2.trans ?_, z2.trans ?_, f2.trans ?_, fun r h => ended r ?_,
      fun told on room => ⟨fun yes => absurd yes m, fun _ => raised _ told on room⟩, fun a b _ yes => absurd yes m⟩
    · rw [began]
    · rw [began]
    · rw [began]
    · rwa [r2] at h

/-- The second half of O20: the bindings in their order, whatever comes between two of them. -/
theorem dispatch_inOrder (src : Source) (trg : Trigger) (sup : List ZoneId) (s : State) (l : List (SlotId × Binding)) :
    MatchingInOrder src trg s l →
    let own (r : Ramp) : Bool := decide ((s.settings.bindings.get r.binding).map (·.source) = some src)
    let start := if trg = .release then { s with ramps := s.ramps.filter fun r => !own r } else s
    let gap := betweenBindings src
    let reached := afterBindings gap sup l start
    let reporting : Bool := match src with
      | .contact i => (s.settings.inputs.get i).report
      | .ladder ch _ => (s.settings.ladders.get ch).report
      | .station a _ => (s.settings.stations.get a).report
    let runs := SomeRuns gap sup l start
    let held := SomeIsSuppressed gap sup l start
    (∃ outcome : DispatchOutcome,
      (l = [] → outcome = .none) ∧ (runs → ¬held → outcome = .run) ∧ (held → ¬runs → outcome = .suppressed) ∧
      (runs → held → outcome = .mixed) ∧
      let told := if reporting then raise (.event src trg outcome) reached else reached
      (∀ a b, src = .station a b → held → dispatch src trg sup s = told.setStation a
        { told.stations.get a with overrides := (told.stations.get a).overrides.set b (some 1500) }) ∧
      ((∀ a b, src ≠ .station a b) ∨ ¬held → dispatch src trg sup s = told)) ∧
    (∀ before b x rest, l = before ++ (b, x) :: rest →
      let found := reachedAfter gap sup before start
      let left := afterBindings gap sup (before ++ [(b, x)]) start
      (Silenced sup x found → left = found) ∧ (¬Silenced sup x found → left = runAction b x found) ∧
      (rest = [] → reached = left) ∧ (rest ≠ [] → reachedAfter gap sup (before ++ [(b, x)]) start = gap left)) ∧
    ((∀ bx ∈ l, bx.2.cls = .loc ∧ bx.2.zone ∈ sup) → reached = l.tail.foldl (fun v _ => gap v) start) := by
  intro listed own start gap reached reporting runs held
  have stages := dispatch_stages src trg sup s
  dsimp only at stages
  rw [← listed.unique, show releaseRamps src trg s = start from releaseRamps_eq src trg s] at stages
  obtain ⟨ran, stopped⟩ := reachBindings_flags gap sup l start
  have empty : l = [] → (reachBindings gap sup l { state := start, ran := false, held := false }).ran = false ∧
      (reachBindings gap sup l { state := start, ran := false, held := false }).held = false := by
    rintro rfl
    exact ⟨rfl, rfl⟩
  have setting : reportsEvents s src = reporting := reportsEvents_eq s src
  rw [setting] at stages
  change dispatch src trg sup s = startOverride src (reachBindings gap sup l { state := start, ran := false, held := false }).held
    (if reporting then raise (.event src trg (outcomeOf _ _)) reached else reached) at stages
  refine ⟨?_, fun before b x rest split => ?_, fun captured => afterBindings_of_captured gap sup captured start⟩
  · generalize reachBindings gap sup l { state := start, ran := false, held := false } = d at stages ran stopped empty
    have off {flag : Bool} {p : Prop} (h : flag = true ↔ p) (no : ¬ p) : flag = false :=
      Bool.eq_false_iff.mpr fun yes => no (h.mp yes)
    refine ⟨outcomeOf d.ran d.held, fun none => ?_, fun yes no => ?_, fun yes no => ?_, fun r h => ?_, fun a b e h => ?_,
      fun still => ?_⟩
    · rw [(empty none).1, (empty none).2]
      rfl
    · rw [ran.mpr yes, off stopped no]
      rfl
    · rw [stopped.mpr yes, off ran no]
      rfl
    · rw [ran.mpr r, stopped.mpr h]
      rfl
    · rw [stages, e, stopped.mpr h]
      rfl
    · exact stages.trans (startOverride_of_none (still.imp_right (off stopped)) _)
  · intro found left
    have last : left = acted sup found (b, x) := afterBindings_append gap sup before (b, x) start
    refine ⟨fun silent => last.trans (if_pos silent), fun free => last.trans (if_neg free), fun end_ => ?_, fun more => ?_⟩
    · simp only [reached, left, split, end_]
    · cases before <;> rfl

/-- Settles O20: the dispatch by its stages, and each command that comes between two bindings by its own. -/
theorem dispatchRunsAllButHeldLocalBindings : Obligations.DispatchRunsAllButHeldLocalBindings :=
  ⟨silencedDispatch_leaves, fun src trg sup s => ⟨⟨_, matching_inOrder src trg s⟩, dispatch_inOrder src trg sup s⟩, comingsAct⟩

end Sys2Proof.Machine

/-! PROOFS. The control link: the framer, the judgement of a frame, the timers and the transmitter (R172 to R174, R179 to
R181, R188). -/

namespace Sys2Proof.Machine

/-! ## The framer (R172, R188) -/

/-- The characters of a frame's body are collected while more are to come. -/
theorem collects (len : Nat) (l : List Byte) {bytes : List Byte} {gap : Nat} {s : State}
    (room : bytes.length + l.length ≤ len) (body : s.framer = .body len bytes gap) (some : l ≠ []) :
    l.foldl (fun s c => takeCharacter c false s) s = { s with framer := .body len (bytes ++ l) gapTime } := by
  induction l generalizing bytes gap s with
  | nil => exact absurd rfl some
  | cons c l ih =>
    rw [List.length_cons] at room
    have first : takeCharacter c false s = { s with framer := .body len (bytes ++ [c]) gapTime } := by
      simp only [takeCharacter, Bool.false_eq_true, if_false, goodCharacter, body]
      exact if_pos (by omega)
    rw [List.foldl_cons, first]
    cases l with
    | nil => rfl
    | cons d l =>
      rw [ih (bytes := bytes ++ [c]) (by simp only [List.length_append, List.length_singleton]; omega) rfl (by simp),
        List.append_assoc]
      rfl

/-- A sum of bytes is the sum of their numbers, modulo 256. -/
theorem sumBytes_toNat (l : List Byte) (a : Byte) :
    (l.foldl (· + ·) a).toNat = (a.toNat + (l.map (·.toNat)).sum) % 256 := by
  induction l generalizing a with
  | nil => simp [Nat.mod_eq_of_lt a.isLt]
  | cons b l ih =>
    rw [List.foldl_cons, ih, BitVec.toNat_add, List.map_cons, List.sum_cons]
    omega

theorem sumBytes_eq_zero_iff (l : List Byte) : l.foldl (· + ·) 0 = (0 : Byte) ↔ (l.map (·.toNat)).sum % 256 = 0 := by
  rw [← BitVec.toNat_inj, sumBytes_toNat]
  simp

/-- A frame whose bytes add up is the request that it spells (R173). -/
theorem entryOf_of_sum {len : Nat} {kind check : Byte} {payload : List Byte}
    (sum : (byteOf len :: (kind :: payload ++ [check])).foldl (· + ·) 0 = (0 : Byte)) :
    entryOf len (kind :: payload ++ [check]) = .request kind payload := by
  unfold entryOf
  rw [if_pos sum, List.cons_append]
  simp

theorem entryOf_of_not_sum {len : Nat} {bytes : List Byte} (sum : (byteOf len :: bytes).foldl (· + ·) 0 ≠ (0 : Byte)) :
    entryOf len bytes = .damaged := if_neg sum

section
variable {s : State}

theorem startCode_taken (idle : s.framer = .idle) : takeCharacter 0xC3 false s = { s with framer := .awaitLen gapTime } := by
  simp [takeCharacter, goodCharacter, idle]

theorem length_taken {gap : Nat} {c : Byte} (await : s.framer = .awaitLen gap) (range : 1 ≤ c.toNat ∧ c.toNat ≤ 241) :
    takeCharacter c false s = { s with framer := .body c.toNat [] gapTime } := by
  simp [takeCharacter, goodCharacter, await, range]

theorem check_taken {len gap : Nat} {bytes : List Byte} {c : Byte} (body : s.framer = .body len bytes gap)
    (full : len ≤ bytes.length) :
    takeCharacter c false s = receiveEntry (entryOf len (bytes ++ [c])) { s with framer := .idle } := by
  simp only [takeCharacter, Bool.false_eq_true, if_false, goodCharacter, body]
  exact if_neg (by omega)

end

/-- Settles O37: the start code, the length, the body, and the check, whose sum is a multiple of 256. -/
theorem framerReadsEveryFrameBack : Obligations.FramerReadsEveryFrameBack := by
  intro f s short idle
  obtain ⟨kind, payload⟩ := f
  dsimp only at short
  have length : (byteOf (payload.length + 1)).toNat = payload.length + 1 := byteOf_toNat (by omega)
  have bytes (check : Byte) : 0xC3 :: byteOf (payload.length + 1) :: kind :: payload ++ [check] =
      0xC3 :: byteOf (payload.length + 1) :: ((kind :: payload) ++ [check]) := rfl
  have restored : ({ s with framer := .idle } : State) = s := by rw [← idle]
  unfold Frame.bytes
  dsimp only
  rw [bytes, List.foldl_cons, List.foldl_cons, startCode_taken idle, length_taken rfl (by rw [length]; omega), length,
    List.foldl_append, collects (payload.length + 1) (kind :: payload) (by simp) rfl (by simp), List.foldl_cons, List.foldl_nil,
    check_taken rfl (by simp)]
  dsimp only
  rw [List.nil_append, entryOf_of_sum (show _ = _ from checkByte_sum (byteOf (payload.length + 1) :: kind :: payload)), restored]

/-! ## The transmitter (R179 to R181) -/

/-- Settles O39: the transmitter's choice by what waits, and a report by its category and the queue. -/
theorem repliesGoBeforeReports : Obligations.RepliesGoBeforeReports := by
  intro s
  refine ⟨fun f free reply => ?_, fun r rest free none waiting => ⟨fun all => ?_, fun n ahead => ?_, fun own => ?_⟩,
    fun src carrying => betweenBindings_wait carrying, fun o busy => ?_, fun free none empty => ?_, fun r =>
    ⟨fun off => ?_, fun on room => ?_, fun on full => ?_⟩⟩
  · simp [serve, free, reply]
  · simp [serve, free, none, waiting, all]
  · simp [serve, free, none, waiting, ahead]
  · simp [serve, free, none, waiting, own]
  · simp [serve, busy]
  · simp [serve, free, none, empty]
  · exact if_neg (by rw [off]; decide)
  · rw [raise_of_room room, if_pos on]
  · exact (if_pos on).trans (if_neg (Nat.not_lt.mpr full))

end Sys2Proof.Machine

/-! PROOFS. The characters of the control link and its timers (R172 to R174). -/

namespace Sys2Proof.Machine

/-! ## The silence timer (R174) -/

section
variable {s : State} {t : SilenceTimer}

/-- A change of the silence timer that leaves LINK_SILENT as it was is nothing more. -/
theorem setSilence_of_same (same : linkSilent s = linkSilent { s with silence := t }) :
    setSilence t s = { s with silence := t } := if_pos same

/-- Where LINK_SILENT changes, the zones that mask it follow it. -/
theorem setSilence_of_change (change : linkSilent s ≠ linkSilent { s with silence := t }) :
    setSilence t s = reevaluateWhere (masks s silentBit) { s with silence := t } := if_neg change

/-- What the zones that mask LINK_SILENT do where it changes (R142, R143). -/
theorem setSilence_follows (change : linkSilent s ≠ linkSilent { s with silence := t }) :
    setSilence t s = reevaluateWhere (fun z => (s.settings.zones.get z).mask.getLsbD 10) { s with silence := t } ∧
      OnlyZones { s with silence := t } (setSilence t s) ∧
      (∀ z, (s.settings.zones.get z).mask.getLsbD 10 = true →
        (((setSilence t s).zones.get z).state = .held ↔ called (setSilence t s) z = true)) ∧
      (∀ z, (s.settings.zones.get z).mask.getLsbD 10 = false → (setSilence t s).zones.get z = s.zones.get z) := by
  refine ⟨setSilence_of_change change, setSilence_frame t s, fun z masked => ?_, fun z unmasked => ?_⟩
  · rw [setSilence_of_change change]; exact reevaluateWhere_held_iff masked _
  · rw [setSilence_of_change change]; exact reevaluateWhere_unconcerned unmasked _

theorem linkSilent_iff : linkSilent s = true ↔ s.silence = .expired := by unfold linkSilent; simp

theorem silenceStart_ne_expired (n : Nat) : silenceStart n ≠ .expired := by
  rw [silenceStart_eq]; split <;> simp

/-- Starting the timer changes LINK_SILENT exactly where it was active. -/
theorem linkSilent_silenceStart (n : Nat) : linkSilent { s with silence := silenceStart n } = false := by
  rw [Bool.eq_false_iff, ne_eq, linkSilent_iff]; exact silenceStart_ne_expired n

end

/-! ## What the link does with a frame, a character and a timer -/

theorem enqueue_eq (e : Entry) (s : State) :
    enqueue e s = { s with requests := if s.requests.length < 4 then s.requests ++ [e] else s.requests } := by
  unfold enqueue; split <;> rfl

/-- Settles O38: the sum of a frame, the timer that a valid one restarts, and the framer by its state. -/
theorem charactersAndLinkTimers : Obligations.CharactersAndLinkTimers := by
  refine ⟨fun len kind check payload s => ?_, fun s running => ⟨fun c => ⟨?_, fun idle => ?_, fun gap await => ?_,
    fun len bytes gap body more => ?_, fun len bytes gap body full => ?_⟩, fun busy => ?_, fun n counting => ?_, fun sending => ?_⟩⟩
  · have total : ((byteOf len :: (kind :: payload ++ [check])).foldl (· + ·) 0 = (0 : Byte)) ↔
        (len + kind.toNat + (payload.map (·.toNat)).sum + check.toNat) % 256 = 0 := by
      rw [sumBytes_eq_zero_iff]
      simp [byteOf]
      omega
    refine ⟨fun sum => entryOf_of_sum (total.2 sum), fun sum => entryOf_of_not_sum (fun h => sum (total.1 h)),
      enqueue_eq _ _, setSilence (silenceStart s.settings.general.silenceTimeout) s, ?_, fun live => ?_, fun silent => ?_⟩
    · have kept := congrArg State.requests (setSilence_frame (silenceStart s.settings.general.silenceTimeout) s)
      show enqueue _ _ = _
      rw [enqueue_eq, kept]
    · refine setSilence_of_same ?_
      rw [linkSilent_silenceStart, Bool.eq_false_iff, ne_eq, linkSilent_iff]
      exact live
    · refine setSilence_follows ?_
      rw [linkSilent_silenceStart, linkSilent_iff.2 silent]
      decide
  · exact event_of_running running
  · refine (event_of_running running).trans ?_
    simp only [takeCharacter, Bool.false_eq_true, if_false, goodCharacter, idle]
    rfl
  · refine (event_of_running running).trans ?_
    simp only [takeCharacter, Bool.false_eq_true, if_false, goodCharacter, await]
    split <;> rfl
  · refine (event_of_running running).trans ?_
    simp only [takeCharacter, Bool.false_eq_true, if_false, goodCharacter, body]
    exact congrArg (fun v => Host.Outcome.next (serve v)) (if_pos (by omega))
  · exact (event_of_running running).trans (congrArg (fun v => Host.Outcome.next (serve v)) (check_taken body full))
  · show execGapTimerExpiry s = _
    unfold execGapTimerExpiry
    exact eventIf_of_possible running (decide_eq_true busy)
  · obtain ⟨eq, only, held, others⟩ := setSilence_follows (s := s) (t := .expired) (by
      rw [linkSilent_iff.2 (show ({ s with silence := .expired } : State).silence = .expired from rfl), ne_eq, linkSilent_iff,
        counting]
      simp)
    refine ⟨setSilence .expired s, ?_, only, eq, held, others⟩
    show execSilenceTimerExpiry s = _
    unfold execSilenceTimerExpiry
    exact eventIf_of_possible running (by rw [counting])
  · show execTransmitFrameEnd s = _
    unfold execTransmitFrameEnd
    exact eventIf_of_possible running sending

end Sys2Proof.Machine

/-! PROOFS. The write of a contact input (R1, R8, R9, R18, R20, R21). -/

namespace Sys2Proof.Machine

/-! ## The release of a write, while the request is in hand -/

section
variable {src : Source} {ch : ChannelId} {s t : State} (hand : s.carrying = true)
include hand

/-- What a gesture that a request ends leaves alone, whatever comes between two bindings (notes/assumptions/28.md). -/
theorem OnlyDispatched.inHand (h : OnlyDispatched src s t) :
    t.settings = s.settings ∧ t.inputs = s.inputs ∧ t.ladders = s.ladders :=
  ⟨(h.carried hand).1, h.inputs, h.sampler (.inr hand)⟩

/-- A channel stopped loses its gesture and its record, and keeps the settings (R21, steps 1 to 3). -/
theorem stopLadder_leaves :
    (stopLadder ch s).settings = s.settings ∧ (stopLadder ch s).inputs = s.inputs ∧
      (stopLadder ch s).ladders = s.ladders.set ch LadderState.off := by
  obtain ⟨settings, inputs, ladders⟩ :=
    (forButton_frame ch (s.ladders.get ch).decode _ synthesizedRelease_frame s).inHand hand
  have stopped : ((forButton ch (s.ladders.get ch).decode synthesizedRelease s).setLadder ch LadderState.off).ladders =
      s.ladders.set ch LadderState.off := congrArg (·.set ch LadderState.off) ladders
  unfold stopLadder
  dsimp only
  split
  · have told := ladderMadeKnown_frame ch .inactive
      ((forButton ch (s.ladders.get ch).decode synthesizedRelease s).setLadder ch LadderState.off)
    exact ⟨told.core.settings.trans settings, (congrArg State.inputs told).trans inputs,
      (congrArg State.ladders told).trans stopped⟩
  · exact ⟨settings, inputs, stopped⟩

end

/-! ## The four writes of an input -/

section
variable {i : InputId} {cs : InputSettings} {s : State}

/-- The settings with an input's record replaced. -/
def Settings.withInput (c : Settings) (i : InputId) (cs : InputSettings) : Settings := { c with inputs := c.inputs.set i cs }

/-- CONTACT to LADDER: the input's gesture ends, its counting stops, its channel starts (R20). -/
theorem inputToLadder_eq (hand : s.carrying = true) : inputToLadder i cs s =
    { synthesizedRelease (.contact i) s with
      settings := s.settings.withInput i cs
      inputs := s.inputs.set i { filtered := .opened, pending := none, conditioning := .stopped }
      ladders := match channelOf i with
        | some ch => s.ladders.set ch LadderState.started
        | none => s.ladders } := by
  obtain ⟨settings, inputs, ladders⟩ := (synthesizedRelease_frame (.contact i) s).inHand hand
  unfold inputToLadder
  rw [← settings, ← inputs, ← ladders]
  cases channelOf i <;> rfl

/-- LADDER to CONTACT: the channel stops, and the input starts settling (R21). -/
theorem inputToContact_eq : inputToContact i cs s =
    let told := match channelOf i with
      | some ch => stopLadder ch s
      | none => s
    { told with
      settings := told.settings.withInput i cs
      inputs := told.inputs.set i { filtered := .opened, pending := none, conditioning := .settling none false } } := rfl

/-- The state in which a rewritten CONTACT input stands before any baseline of R8. -/
def rewritten (i : InputId) (old cs : InputSettings) (s : State) : State :=
  let ended := if retakesGesture old cs then synthesizedRelease (.contact i) s else s
  { ended with
    settings := s.settings.withInput i cs
    inputs := if old.noise = cs.noise then s.inputs else s.inputs.set i (s.inputs.get i).recount }

theorem rewriteContact_eq (hand : s.carrying = true) (old : InputSettings) : rewriteContact i old cs s =
    if retakesGesture old cs then retakeBaseline i cs (rewritten i old cs s) else rewritten i old cs s := by
  have kept : ∀ ended : State, ended.settings = s.settings → ended.inputs = s.inputs →
      (if old.noise = cs.noise then storeInput i cs ended
        else (storeInput i cs ended).setInput i ((storeInput i cs ended).inputs.get i).recount) =
      { ended with
        settings := s.settings.withInput i cs
        inputs := if old.noise = cs.noise then s.inputs else s.inputs.set i (s.inputs.get i).recount } := by
    intro ended settings inputs
    rw [← settings, ← inputs]
    split <;> rfl
  obtain ⟨settings, inputs, -⟩ := (synthesizedRelease_frame (.contact i) s).inHand hand
  unfold rewriteContact rewritten
  dsimp only
  split
  · rw [kept _ settings inputs]
  · rw [kept s rfl rfl]

theorem retakesGesture_iff {old cs : InputSettings} : retakesGesture old cs = true ↔
    old.sense ≠ cs.sense ∨ old.kind ≠ cs.kind ∨ old.participate ≠ cs.participate := by
  unfold retakesGesture
  simp [or_assoc]

theorem recount_running (st : InputState) : st.recount.conditioning = .running ↔ st.conditioning = .running := by
  unfold InputState.recount
  cases st.conditioning <;> simp

/-- The input's own record after a rewrite: what was counted is discarded where the noise width changes (R9). -/
theorem rewritten_input (old : InputSettings) : (rewritten i old cs s).inputs.get i =
    if old.noise = cs.noise then s.inputs.get i else (s.inputs.get i).recount := by
  unfold rewritten
  dsimp only
  split <;> simp

theorem rewritten_other {old : InputSettings} {j : InputId} (other : j ≠ i) :
    (rewritten i old cs s).inputs.get j = s.inputs.get j := by
  unfold rewritten
  dsimp only
  split
  · rfl
  · exact Table.get_set_ne _ _ other.symm

/-- The baseline of R8 reaches a tracker that the release left IDLE. -/
theorem retakeBaseline_of_pressed {old : InputSettings} (idle : ((rewritten i old cs s).tracker (.contact i)).state = .idle)
    (running : (s.inputs.get i).conditioning = .running) (participates : cs.participate = true)
    (level : (s.inputs.get i).filtered = cs.sense.pressLevel) :
    retakeBaseline i cs (rewritten i old cs s) = (rewritten i old cs s).setTracker (.contact i) Tracker.latent := by
  have stands : ((rewritten i old cs s).inputs.get i).conditioning = .running ∧
      ((rewritten i old cs s).inputs.get i).filtered = cs.sense.pressLevel := by
    rw [rewritten_input]
    split
    · exact ⟨running, level⟩
    · exact ⟨(recount_running _).2 running, level⟩
  unfold retakeBaseline
  rw [if_pos (by simp [stands.1, stands.2, participates])]
  exact baseline_latent _ _ idle

theorem retakeBaseline_of_not_pressed {old : InputSettings}
    (not : ¬ ((s.inputs.get i).conditioning = .running ∧ cs.participate = true ∧
      (s.inputs.get i).filtered = cs.sense.pressLevel)) :
    retakeBaseline i cs (rewritten i old cs s) = rewritten i old cs s := by
  have stands : ¬ (((rewritten i old cs s).inputs.get i).conditioning = .running ∧ cs.participate = true ∧
      ((rewritten i old cs s).inputs.get i).filtered = cs.sense.pressLevel) := by
    rw [rewritten_input]
    split
    · exact not
    · rw [recount_running]; exact not
  unfold retakeBaseline
  refine if_neg fun h => stands ?_
  simpa [and_assoc] using h

end

/-! ## The write -/

section
variable {i : InputId} {cs : InputSettings} {s : State}

/-- The channel of an input is the one read on it. -/
theorem channel_of_inputOfChannel {ch : ChannelId} (own : inputOfChannel ch = i) : channelOf i = some ch :=
  channelOf_eq_some.2 own

/-- The channel of another input is not written with this one. -/
theorem setChannel_other {ch : ChannelId} (other : inputOfChannel ch ≠ i) (l : Table LadderState 8) (v : LadderState) :
    (match channelOf i with
      | some c => l.set c v
      | none => l).get ch = l.get ch := by
  cases own : channelOf i with
  | none => rfl
  | some c => exact Table.get_set_ne _ _ fun e => other (channelOf_eq_some.1 (e ▸ own))

/-- What LADDER to CONTACT leaves of the records, with the request in hand (R21). -/
theorem inputToContact_leaves (hand : s.carrying = true) :
    (inputToContact i cs s).settings = s.settings.withInput i cs ∧
      (inputToContact i cs s).inputs =
        s.inputs.set i { filtered := .opened, pending := none, conditioning := .settling none false } ∧
      (inputToContact i cs s).ladders = match channelOf i with
        | some ch => s.ladders.set ch LadderState.off
        | none => s.ladders := by
  rw [inputToContact_eq]
  dsimp only
  cases channelOf i with
  | none => exact ⟨rfl, rfl, rfl⟩
  | some ch =>
    obtain ⟨settings, inputs, ladders⟩ := stopLadder_leaves (ch := ch) hand
    exact ⟨by dsimp only; rw [settings], by dsimp only; rw [inputs], ladders⟩

/-- A channel that leaves FAULT so has its home zone told, after its report (R18, R21). -/
theorem stopLadder_of_fault (hand : s.carrying = true) {ch : ChannelId} (fault : (s.ladders.get ch).state = .fault) :
    stopLadder ch s = reevaluate (s.settings.ladders.get ch).homeZone (raise (.ladder ch .inactive)
      ((forButton ch (s.ladders.get ch).decode synthesizedRelease s).setLadder ch LadderState.off)) := by
  obtain ⟨settings, -, ladders⟩ := (forButton_frame ch (s.ladders.get ch).decode _ synthesizedRelease_frame s).inHand hand
  unfold stopLadder
  dsimp only
  rw [if_pos (by rw [ladders]; exact fault), ← settings]
  rfl

theorem stopLadder_of_sound (hand : s.carrying = true) {ch : ChannelId} (sound : (s.ladders.get ch).state ≠ .fault) :
    stopLadder ch s = (forButton ch (s.ladders.get ch).decode synthesizedRelease s).setLadder ch LadderState.off := by
  obtain ⟨-, -, ladders⟩ := (forButton_frame ch (s.ladders.get ch).decode _ synthesizedRelease_frame s).inHand hand
  unfold stopLadder
  dsimp only
  exact if_neg (by rw [ladders]; exact sound)

/-- The button of a stopped channel is IDLE (R21). -/
theorem stopLadder_idle {ch : ChannelId} {b : LadderButton} (held : (s.ladders.get ch).decode = b.val + 1) :
    ((stopLadder ch s).tracker (.ladder ch b)).state = .idle := by
  have idle : ((forButton ch (s.ladders.get ch).decode synthesizedRelease s).tracker (.ladder ch b)).state = .idle := by
    rw [forButton_of_button held]; exact synthesizedRelease_idle _ _
  unfold stopLadder
  dsimp only
  split
  · rw [(ladderMadeKnown_fields _ _ _).2.1]; exact idle
  · exact idle

/-- A rewrite of a CONTACT input, by whether its gesture is retaken and ends at its press level (R8). -/
theorem rewriteContact_cases (hand : s.carrying = true) {old : InputSettings} :
    (retakesGesture old cs = true → ((s.inputs.get i).conditioning = .running ∧ cs.participate = true ∧
        (s.inputs.get i).filtered = cs.sense.pressLevel) →
      rewriteContact i old cs s = (rewritten i old cs s).setTracker (.contact i) Tracker.latent) ∧
    (¬ (retakesGesture old cs = true ∧ ((s.inputs.get i).conditioning = .running ∧ cs.participate = true ∧
        (s.inputs.get i).filtered = cs.sense.pressLevel)) →
      rewriteContact i old cs s = rewritten i old cs s) := by
  rw [rewriteContact_eq hand]
  refine ⟨fun retakes ⟨running, participates, level⟩ => ?_, fun not => ?_⟩
  · rw [if_pos retakes]
    refine retakeBaseline_of_pressed ?_ running participates level
    unfold rewritten
    rw [if_pos retakes]
    exact synthesizedRelease_idle (.contact i) s
  · split
    · next retakes => exact retakeBaseline_of_not_pressed fun pressed => not ⟨retakes, pressed⟩
    · rfl

/-- The records that a rewrite leaves, whatever becomes of the gesture. -/
theorem rewriteContact_leaves (hand : s.carrying = true) {old : InputSettings} :
    (rewriteContact i old cs s).settings = s.settings.withInput i cs ∧
      (rewriteContact i old cs s).inputs = (rewritten i old cs s).inputs ∧
      (rewriteContact i old cs s).ladders = s.ladders ∧ OtherTrackersKept [.contact i] s (rewriteContact i old cs s) := by
  have ended : (rewritten i old cs s).ladders = s.ladders ∧ OtherTrackersKept [.contact i] s (rewritten i old cs s) := by
    by_cases retakes : retakesGesture old cs = true
    · unfold rewritten
      rw [if_pos retakes]
      refine ⟨?_, fun src other => ?_⟩
      · exact ((synthesizedRelease_frame (.contact i) s).inHand hand).2.2
      · exact synthesizedRelease_other _ (by simpa using other)
    · unfold rewritten
      rw [if_neg retakes]
      exact ⟨rfl, fun _ _ => rfl⟩
  obtain ⟨latent, plain⟩ := rewriteContact_cases (i := i) (cs := cs) hand (old := old)
  by_cases h : retakesGesture old cs = true ∧ ((s.inputs.get i).conditioning = .running ∧ cs.participate = true ∧
        (s.inputs.get i).filtered = cs.sense.pressLevel)
  · rw [latent h.1 h.2]
    refine ⟨rfl, rfl, ended.1, fun src other => ?_⟩
    rw [State.tracker_setTracker_ne _ _ (Ne.symm (by simpa using other))]
    exact ended.2 src other
  · rw [plain h]
    exact ⟨rfl, rfl, ended⟩

end

/-- Settles O42: each of the four writes by its equation. -/
theorem putInputRestartsWhatItChanges : Obligations.PutInputRestartsWhatItChanges := by
  intro p i cs s headed size notSaving read allowed old retakes pressed
  have hand : s.taken.carrying = true := rfl
  have carries : carryPutInput p s.taken = done [] (writeInput i cs s.taken) := by
    unfold carryPutInput
    rw [if_neg (by simp [size]), if_neg (by simp [State.taken, notSaving]), read]
    exact if_neg (by rw [inputDenied_congr (s := s) (t := s.taken) rfl, allowed]; decide)
  refine ⟨writeInput i cs s.taken, request_done headed carries, ?_⟩
  cases was : old.function <;> cases becomes : cs.function
  case contact.contact =>
    have write : writeInput i cs s.taken = rewriteContact i old cs s.taken := by
      unfold writeInput
      simp only [show (s.taken.settings.inputs.get i).function = .contact from was, becomes]
      rfl
    obtain ⟨settings, inputs, ladders, others⟩ := rewriteContact_leaves (i := i) (cs := cs) (old := old) hand
    obtain ⟨latent, plain⟩ := rewriteContact_cases (i := i) (cs := cs) hand (old := old)
    have retaken : retakesGesture old cs = true ↔ retakes := retakesGesture_iff
    rw [write]
    refine ⟨settings, fun j other => ?_, fun ch _ => by rw [ladders]; rfl, nofun, nofun, fun _ _ => ⟨?_, others,
      ⟨if retakesGesture old cs then synthesizedRelease (.contact i) s.taken else s.taken, rewritten i old cs s.taken,
        fun yes => if_pos (retaken.2 yes), fun no => if_neg fun yes => no (retaken.1 yes), ?_, fun yes held => ?_, fun no => ?_⟩,
      fun yes held => ?_, fun yes off => ?_, fun sense kind participates => ?_⟩, nofun⟩
    · rw [inputs]; exact rewritten_other other
    · rw [inputs]; exact rewritten_input old
    · rw [settings, inputs]; rfl
    · exact latent (retaken.2 yes) held
    · exact plain fun ⟨yes, held⟩ => no.elim (fun h => h (retaken.1 yes)) fun h => h held
    · rw [latent (retaken.2 yes) held]; exact State.tracker_setTracker_self _ _ _
    · rw [plain fun ⟨_, held⟩ => off held]
      unfold rewritten
      rw [if_pos (retaken.2 yes)]
      exact synthesizedRelease_idle (.contact i) s.taken
    · have no : ¬ retakesGesture old cs = true := fun h => by
        rcases retaken.1 h with h | h | h <;> exact h ‹_›
      rw [plain fun h => no h.1]
      unfold rewritten
      rw [if_neg no]
      rfl
  case contact.ladder =>
    have write : writeInput i cs s.taken = inputToLadder i cs s.taken := by
      unfold writeInput
      simp only [show (s.taken.settings.inputs.get i).function = .contact from was, becomes]
    rw [write, inputToLadder_eq hand]
    refine ⟨rfl, fun j other => Table.get_set_ne _ _ other.symm, fun ch other => setChannel_other other _ _, fun _ _ =>
      ⟨rfl, Table.get_set_self _ _ _, synthesizedRelease_idle (.contact i) s.taken, fun src other => ?_, fun ch own => ?_⟩,
      nofun, nofun, nofun⟩
    · exact synthesizedRelease_other (src := .contact i) (other := src) s.taken (by simpa using other)
    · rw [channel_of_inputOfChannel own]
      exact Table.get_set_self _ _ _
  case ladder.contact =>
    have write : writeInput i cs s.taken = inputToContact i cs s.taken := by
      unfold writeInput
      simp only [show (s.taken.settings.inputs.get i).function = .ladder from was, becomes]
    obtain ⟨settings, inputs, ladders⟩ := inputToContact_leaves (i := i) (cs := cs) hand
    rw [write]
    refine ⟨settings, fun j other => ?_, fun ch other => ?_, nofun, fun _ _ => ⟨?_, fun ch own => ?_⟩, nofun, nofun⟩
    · rw [inputs]; exact Table.get_set_ne _ _ other.symm
    · rw [ladders]; exact setChannel_other other _ _
    · rw [inputs]; exact Table.get_set_self _ _ _
    · have channel := channel_of_inputOfChannel own
      have told : inputToContact i cs s.taken = _ := inputToContact_eq
      rw [channel] at ladders told
      refine ⟨by rw [ladders]; exact Table.get_set_self _ _ _, ⟨forButton ch (s.ladders.get ch).decode synthesizedRelease s.taken,
        stopLadder ch s.taken, fun b held => forButton_of_button held, forButton_of_none, stopLadder_of_fault hand,
        fun sound => stopLadder_of_sound hand sound, ?_⟩, fun b held => ?_⟩
      · rw [told]
      · rw [told]
        exact stopLadder_idle held
  case ladder.ladder =>
    have write : writeInput i cs s.taken = storeInput i cs s.taken := by
      unfold writeInput
      simp only [show (s.taken.settings.inputs.get i).function = .ladder from was, becomes]
    rw [write]
    exact ⟨rfl, fun _ _ => rfl, fun _ _ => rfl, nofun, nofun, nofun, fun _ _ => rfl⟩

end Sys2Proof.Machine

/-! PROOFS. The writes of a ladder channel and of a station (R17, R18, R22 to R24, R29, R39, R40). -/

namespace Sys2Proof.Machine

/-! ## The zones told -/

/-- Re-evaluation calls no zone and ends no call. -/
theorem reevaluateWhere_called (p : ZoneId → Bool) (s : State) (y : ZoneId) : called (reevaluateWhere p s) y = called s y :=
  foldl_kept (P := fun v => called v y = called s y) (fun v z kept => by
    split
    · rw [reevaluate_called, kept]
    · exact kept) _ s rfl

theorem OnlyZones.activeMasked {s t : State} (h : OnlyZones s t) (z : ZoneId) : activeMasked t z = activeMasked s z := by
  unfold OnlyZones at h
  rw [h]
  rfl

theorem stationMissing_iff {s : State} {z : ZoneId} : stationMissing s z = true ↔
    ∃ a, (s.settings.stations.get a).enabled = true ∧ (s.settings.stations.get a).homeZone = z ∧
      (s.stations.get a).state.lost = true ∧ (s.stations.get a).uncounted = false := by
  simp [stationMissing, and_assoc]

/-- A zone is called where it was, as long as no condition of its mask has become active. -/
theorem called_of_conditions {s t : State} {z : ZoneId} (force : (t.zones.get z).force = (s.zones.get z).force)
    (fewer : ∀ i < 12, (activeMasked t z).getLsbD i = true → (activeMasked s z).getLsbD i = true) (h : called t z = true) :
    called s z = true := by
  unfold called at h ⊢
  rw [Bool.or_eq_true, decide_eq_true_eq] at h ⊢
  rw [force] at h
  refine h.imp_right fun some none => some ?_
  refine BitVec.eq_of_getLsbD_eq fun i hi => ?_
  rw [← none, Bool.eq_iff_iff]
  refine ⟨fewer i hi, fun h => ?_⟩
  rw [none] at h
  simp at h

/-- A condition of the mask that is active calls the zone (R142). -/
theorem called_of_condition {s : State} {z : ZoneId} {i : Nat} (active : (activeMasked s z).getLsbD i = true) :
    called s z = true := by
  unfold called
  rw [Bool.or_eq_true, decide_eq_true_eq]
  refine .inr fun none => ?_
  rw [none] at active
  simp at active

/-! ## The write of a channel (R17) -/

section
variable {ch : ChannelId} {cs : LadderSettings} {s : State}

/-- A channel's gesture ended, its record stored and the channel started afresh (R17). -/
def startedAfresh (ch : ChannelId) (cs : LadderSettings) (s : State) : State :=
  { forButton ch (s.ladders.get ch).decode synthesizedRelease s with
    settings := { s.settings with ladders := s.settings.ladders.set ch cs }
    ladders := s.ladders.set ch LadderState.started }

theorem restartLadder_eq (hand : s.carrying = true) : restartLadder ch cs s =
    if (s.ladders.get ch).state = .fault then
      reevaluateWhere (fun z => decide (z = (s.settings.ladders.get ch).homeZone) || decide (z = cs.homeZone))
        (raise (.ladder ch .normal) (startedAfresh ch cs s))
    else startedAfresh ch cs s := by
  obtain ⟨settings, -, ladders⟩ := (forButton_frame ch (s.ladders.get ch).decode _ synthesizedRelease_frame s).inHand hand
  have afresh : (storeLadder ch cs (forButton ch (s.ladders.get ch).decode synthesizedRelease s)).setLadder ch
      LadderState.started = startedAfresh ch cs s := by
    unfold startedAfresh
    generalize forButton ch (s.ladders.get ch).decode synthesizedRelease s = released at settings ladders ⊢
    rw [← settings, ← ladders]
    rfl
  unfold restartLadder
  dsimp only
  rw [afresh, ladders]

/-- Telling the zones moves neither the settings, nor a channel, nor a tracker. -/
theorem restartLadder_leaves (hand : s.carrying = true) :
    (restartLadder ch cs s).settings = { s.settings with ladders := s.settings.ladders.set ch cs } ∧
      (restartLadder ch cs s).ladders = s.ladders.set ch LadderState.started ∧
      ∀ src, (restartLadder ch cs s).tracker src =
        (forButton ch (s.ladders.get ch).decode synthesizedRelease s).tracker src := by
  rw [restartLadder_eq hand]
  split
  · have told := (raise_frame (.ladder ch .normal) (startedAfresh ch cs s)).zones.trans (reevaluateWhere_frame
      (fun z => decide (z = (s.settings.ladders.get ch).homeZone) || decide (z = cs.homeZone)) _)
    exact ⟨told.core.settings, congrArg State.ladders told, told.core.tracker⟩
  · exact ⟨rfl, rfl, fun _ => rfl⟩

end

/-! ## The write of a station (R23, R24, R40) -/

section
variable {a : StationId} {cs : StationSettings} {s : State}

/-- The settings with a station's record replaced. -/
def Settings.withStation (c : Settings) (a : StationId) (cs : StationSettings) : Settings :=
  { c with stations := c.stations.set a cs }

/-- The releases of a station's buttons keep the settings of a request in hand, and the turn. -/
theorem releasedLeaving_leaves (hand : s.carrying = true) (st : StationState) :
    (releasedLeaving a st s).settings = s.settings ∧ (releasedLeaving a st s).turn = s.turn := by
  unfold releasedLeaving
  split
  · exact (foldl_kept (P := fun v => v.carrying = true ∧ v.settings = s.settings ∧ v.turn = s.turn) (fun v b ⟨hand, kept, turn⟩ => by
      have frame := synthesizedRelease_frame (.station a b) v
      exact ⟨frame.carrying.trans hand, (frame.carried hand).1.trans kept, (frame.bus rfl).1.trans turn⟩) _ s
      ⟨hand, rfl, rfl⟩).2
  · exact ⟨rfl, rfl⟩

/-- The state in which the zones are told of a station written outside its turn. -/
def restarted (a : StationId) (cs : StationSettings) (s : State) : State :=
  recorded a ((s.stations.get a).written cs)
    { releasedLeaving a (s.stations.get a) s with settings := s.settings.withStation a cs }

theorem restartStation_eq (hand : s.carrying = true) (concerned : ZoneId → Bool) :
    restartStation a (storeStation a cs) concerned s = reevaluateWhere concerned (restarted a cs s) := by
  have left := releasedLeaving_overrides a (s.stations.get a) s
  have settings := (releasedLeaving_leaves (a := a) hand (s.stations.get a)).1
  have record : ({ (storeStation a cs (releasedLeaving a (s.stations.get a) s)).stations.get a with
      keyMap := 0, baselinePending := false, misses := 0, overrides := Table.replicate 8 none, uncounted := false,
      state := writtenState ((storeStation a cs (releasedLeaving a (s.stations.get a) s)).settings.stations.get a) } :
        StationState) = (s.stations.get a).written cs := by
    show ({ (releasedLeaving a (s.stations.get a) s).stations.get a with
      keyMap := 0, baselinePending := false, misses := 0, overrides := Table.replicate 8 none, uncounted := false,
      state := writtenState (((releasedLeaving a (s.stations.get a) s).settings.stations.set a cs).get a) } : StationState) = _
    rw [left.here, Table.get_set_self]
    rfl
  unfold restarted
  rw [← settings, ← record]
  rfl

theorem restarted_leaves (hand : s.carrying = true) (concerned : ZoneId → Bool) :
    let u := reevaluateWhere concerned (restarted a cs s)
    u.settings = s.settings.withStation a cs ∧ u.stations = s.stations.set a ((s.stations.get a).written cs) ∧ u.turn = s.turn ∧
      ∀ src, u.tracker src = (releasedLeaving a (s.stations.get a) s).tracker src := by
  intro u
  obtain ⟨stations, trackers, -⟩ := recorded_fields a ((s.stations.get a).written cs)
    { releasedLeaving a (s.stations.get a) s with settings := s.settings.withStation a cs }
  have told := (enterStation_frame a ((s.stations.get a).written cs)
    { releasedLeaving a (s.stations.get a) s with settings := s.settings.withStation a cs }).zones
  rw [enterStation_eq] at told
  have all := told.trans (reevaluateWhere_frame concerned _)
  refine ⟨all.core.settings, ?_, ?_, all.core.tracker⟩
  · refine (congrArg State.stations (reevaluateWhere_frame concerned (restarted a cs s))).trans (stations.trans ?_)
    exact (releasedLeaving_overrides a (s.stations.get a) s).set _
  · exact (congrArg State.turn all).trans (releasedLeaving_leaves hand _).2

/-- The state in which the zones are told of a station written in its own turn `tn`. -/
def writtenMidTurn (a : StationId) (cs : StationSettings) (tn : Turn) (s : State) : State :=
  { s with
    settings := s.settings.withStation a cs
    stations := s.stations.set a (writtenInTurn (s.settings.stations.get a) cs (s.stations.get a))
    turn := some { tn with deferred := true } }

/-- A write in the station's own turn makes no station count that did not (notes/assumptions/9.md). -/
theorem stationMissing_writtenMidTurn {tn : Turn} {z : ZoneId}
    (counted : (s.settings.stations.get a).enabled = true ∨ (s.stations.get a).uncounted = true)
    (missing : stationMissing (writtenMidTurn a cs tn s) z = true) : stationMissing s z = true := by
  obtain ⟨b, enabled, home, lost, counts⟩ := stationMissing_iff.1 missing
  refine stationMissing_iff.2 ⟨b, ?_⟩
  by_cases same : a = b
  · subst same
    simp only [writtenMidTurn, Settings.withStation, writtenInTurn, Table.get_set_self, Bool.or_eq_false_iff,
      decide_eq_false_iff_not, not_not] at home lost counts
    rw [counts.1, Bool.false_eq_true, or_false] at counted
    exact ⟨counted, counts.2.symm.trans home, lost, counts.1⟩
  · simp only [writtenMidTurn, Settings.withStation, Table.get_set_ne _ _ same] at enabled home lost counts
    exact ⟨enabled, home, lost, counts⟩

theorem called_writtenMidTurn {tn : Turn} {z : ZoneId}
    (counted : (s.settings.stations.get a).enabled = true ∨ (s.stations.get a).uncounted = true)
    (h : called (writtenMidTurn a cs tn s) z = true) : called s z = true := by
  refine called_of_conditions (t := writtenMidTurn a cs tn s) rfl (fun i hi active => ?_) h
  obtain ⟨masked, flag | ⟨bit, missing⟩ | others⟩ := (activeMasked_bit hi).1 active
  · exact (activeMasked_bit hi).2 ⟨masked, .inl flag⟩
  · exact (activeMasked_bit hi).2 ⟨masked, .inr (.inl ⟨bit, stationMissing_writtenMidTurn counted missing⟩)⟩
  · exact (activeMasked_bit hi).2 ⟨masked, .inr (.inr others)⟩

/-- A lost station that is not moved calls its home zone for as long as it is enabled (R40). -/
theorem writtenMidTurn_calls {tn : Turn} (enabled : cs.enabled = true)
    (stays : cs.homeZone = (s.settings.stations.get a).homeZone) (counts : (s.stations.get a).uncounted = false)
    (lost : (s.stations.get a).state.lost = true) (masked : (s.settings.zones.get cs.homeZone).mask.getLsbD 8 = true) :
    (activeMasked (writtenMidTurn a cs tn s) cs.homeZone).getLsbD 8 = true := by
  refine (activeMasked_bit (by decide)).2 ⟨masked, .inr (.inl ⟨rfl, stationMissing_iff.2 ⟨a, ?_⟩⟩)⟩
  simp [writtenMidTurn, Settings.withStation, writtenInTurn, enabled, stays, counts, lost]

end

/-! ## The statement -/

theorem putLadder_starts_afresh {p : List Byte} {ch : ChannelId} {cs : LadderSettings} {s : State}
    (headed : RequestHeads 0x31 p s) (size : p.length = 34) (notSaving : s.saving = false)
    (read : ladderOf p = some (ch, cs)) : exec (.putLadder p) s = .next (replied 0x31 .done [] (writeLadder ch cs s.taken)) := by
  refine request_done headed ?_
  unfold carryPutLadder
  rw [if_neg (by simp [size]), if_neg (by simp [State.taken, notSaving]), read]

theorem putStation_starts_afresh {p : List Byte} {a : StationId} {cs : StationSettings} {s : State}
    (headed : RequestHeads 0x32 p s) (size : p.length = 22) (notSaving : s.saving = false)
    (read : stationOf p = some (a, cs)) :
    exec (.putStation p) s = .next (replied 0x32 .done [] (writeStation a cs s.taken)) := by
  refine request_done headed ?_
  unfold carryPutStation
  rw [if_neg (by simp [size]), if_neg (by simp [State.taken, notSaving]), read]

theorem writeLadder_of_inactive {ch : ChannelId} {cs : LadderSettings} {s : State}
    (inactive : (s.ladders.get ch).state = .inactive) : writeLadder ch cs s = storeLadder ch cs s := by
  unfold writeLadder
  rw [inactive]

theorem writeLadder_of_sampled {ch : ChannelId} {cs : LadderSettings} {s : State}
    (sampled : (s.ladders.get ch).state ≠ .inactive) : writeLadder ch cs s = restartLadder ch cs s := by
  unfold writeLadder
  cases state : (s.ladders.get ch).state with
  | inactive => exact absurd state sampled
  | normal => rfl
  | fault => rfl

theorem writeStation_own_turn {a : StationId} {cs : StationSettings} {s : State} {tn : Turn} (turn : s.turn = some tn)
    (own : tn.address = a) : writeStation a cs s = reevaluateWhere
      (fun z => decide (z = (s.settings.stations.get a).homeZone) || decide (z = cs.homeZone)) (writtenMidTurn a cs tn s) := by
  unfold writeStation
  rw [turn]
  exact if_pos own

theorem writeStation_other_turn {a : StationId} {cs : StationSettings} {s : State} (hand : s.carrying = true)
    (other : ∀ tn, s.turn = some tn → tn.address ≠ a) :
    let told := reevaluateWhere (fun z => decide (z = (s.settings.stations.get a).homeZone) || decide (z = cs.homeZone))
      (restarted a cs s)
    writeStation a cs s = { told with
      turn := match s.turn with
        | some tn => some tn
        | none => if cs.enabled then some (newTurn told a) else none } := by
  intro told
  have turn : told.turn = s.turn := (restarted_leaves hand _).2.2.1
  unfold writeStation
  dsimp only
  rw [restartStation_eq hand]
  cases is : s.turn with
  | some tn =>
    refine (if_neg (other tn is)).trans ?_
    show told = { told with turn := some tn }
    rw [← is, ← turn]
  | none =>
    show (if cs.enabled then beginTurn (some a) told else told) = _
    split
    · rfl
    · show told = { told with turn := none }
      rw [← is, ← turn]

/-- Settles O43: the channel by its state, the station by whether the turn is its own. -/
theorem putLadderAndPutStationStartAfresh : Obligations.PutLadderAndPutStationStartAfresh := by
  have hand (s : State) : s.taken.carrying = true := rfl
  refine ⟨fun p ch cs s headed size notSaving read => ⟨_, putLadder_starts_afresh headed size notSaving read, ?_⟩,
    fun p a cs s headed size notSaving read => ?_⟩
  · by_cases state : (s.ladders.get ch).state = .inactive
    · rw [writeLadder_of_inactive (s := s.taken) state]
      exact ⟨rfl, fun _ => rfl, fun sampled => absurd state sampled⟩
    · rw [writeLadder_of_sampled (s := s.taken) state]
      obtain ⟨settings, ladders, trackers⟩ := restartLadder_leaves (ch := ch) (cs := cs) (hand s)
      refine ⟨settings, fun inactive => absurd inactive state, fun _ => ⟨ladders, ⟨_, startedAfresh ch cs s.taken,
        fun b held => forButton_of_button held, forButton_of_none, ?_, fun fault => ?_, fun sound => ?_⟩, fun src apart => ?_,
        fun b held => ?_⟩⟩
      · rw [settings, ladders]; rfl
      · rw [restartLadder_eq (hand s)]; exact if_pos fault
      · rw [restartLadder_eq (hand s)]; exact if_neg sound
      · rw [trackers]
        exact forButton_other (fun _ u _ other => synthesizedRelease_other u other) apart
      · rw [trackers, forButton_of_button (n := (s.taken.ladders.get ch).decode) held]
        exact synthesizedRelease_idle _ _
  · intro concerned
    refine ⟨_, putStation_starts_afresh headed size notSaving read, ?_⟩
    by_cases own : ∃ tn, s.turn = some tn ∧ tn.address = a
    · obtain ⟨tn, turn, own⟩ := own
      rw [show writeStation a cs s.taken = reevaluateWhere concerned (writtenMidTurn a cs tn s.taken) from
        writeStation_own_turn (s := s.taken) turn own]
      have told := reevaluateWhere_frame concerned (writtenMidTurn a cs tn s.taken)
      refine ⟨told.core.settings, fun tn' turn' _ => ?_, fun other => absurd own (other tn turn)⟩
      cases turn.symm.trans turn'
      have held (z : ZoneId) (home : z = cs.homeZone ∨ z = (s.settings.stations.get a).homeZone) :=
        reevaluateWhere_held_iff (p := concerned) (z := z) (by simpa [concerned, or_comm] using home)
          (writtenMidTurn a cs tn s.taken)
      refine ⟨congrArg State.turn told, ?_, congrArg State.stations told, told.core.tracker, held,
        fun enabled stays counts lost masked => ?_, fun counted z called => ?_⟩
      · rw [told.core.settings, congrArg State.stations told, congrArg State.turn told]
        rfl
      · have active := (told.activeMasked _).symm ▸ writtenMidTurn_calls (tn := tn) (s := s.taken) enabled stays counts
          ((StationStateName.lost_iff _).2 lost) masked
        exact ⟨active, (held _ (.inl rfl)).2 (called_of_condition active)⟩
      · rw [reevaluateWhere_called] at called
        exact called_writtenMidTurn (s := s.taken) counted called
    · have other : ∀ tn, s.turn = some tn → tn.address ≠ a := fun tn turn own' => own ⟨tn, turn, own'⟩
      obtain ⟨settings, stations, -, trackers⟩ := restarted_leaves (a := a) (cs := cs) (hand s) concerned
      rw [show writeStation a cs s.taken = { reevaluateWhere concerned (restarted a cs s.taken) with
        turn := match s.turn with
          | some tn => some tn
          | none => if cs.enabled then some (newTurn (reevaluateWhere concerned (restarted a cs s.taken)) a) else none } from
        writeStation_other_turn (hand s) other]
      refine ⟨settings, fun tn turn own' => absurd own' (other tn turn), fun _ => ⟨fun z home => ?_, ⟨stations, ?_,
        fun b active held => ?_, fun src apart => ?_⟩, fun quiet => ?_, fun tn turn => ?_⟩⟩
      · exact reevaluateWhere_held_iff (p := concerned) (by simpa [concerned, or_comm] using home) _
      · show _ = ({ reevaluateWhere concerned (recorded a _ { releasedLeaving a (s.stations.get a) s.taken with
          settings := (reevaluateWhere concerned (restarted a cs s.taken)).settings }) with turn := _ } : State)
        rw [settings]
        rfl
      · exact (congrArg Tracker.state (trackers _)).trans (releasedLeaving_idle active held _)
      · exact (trackers src).trans (releasedLeaving_other apart _)
      · simp only [State.taken, quiet]
        rfl
      · simp only [turn]

end Sys2Proof.Machine

/-! PROOFS. The writes of a binding, a scene, a circuit, a zone, an annunciator and the general settings (R57, R61, R83, R106,
R117, R141, R152, R162, R163, R169, R175, R185). -/

namespace Sys2Proof.Machine

/-! ## Reports (R181) -/

/-- A report that is raised joins the others at most. -/
theorem mem_raise {r x : Report} {s : State} (h : x ∈ (raise r s).reports) : x ∈ s.reports ∨ x = r := by
  unfold raise at h
  split at h
  · split at h
    · simpa using h
    · exact .inl h
  · exact .inl h

/-- A report that waits still waits once another is raised. -/
theorem raise_keeps {r x : Report} {s : State} (h : x ∈ s.reports) : x ∈ (raise r s).reports := by
  unfold raise
  split
  · split
    · exact List.mem_append_left _ h
    · exact h
  · exact h

/-! ## Re-evaluation: the force, the ramps, the reports (R143, R149, R150) -/

/-- A zone's report. -/
def Report.OfZone (r : Report) : Prop := ∃ z st f m, r = .zone z st f m

/-- What re-evaluation keeps of the forces and of the reports. -/
structure KeepsForces (s t : State) : Prop where
  force : ∀ z, (t.zones.get z).force = (s.zones.get z).force
  waiting : ∀ r ∈ s.reports, r ∈ t.reports
  raised : ∀ r ∈ t.reports, r ∈ s.reports ∨ r.OfZone

theorem KeepsForces.refl (s : State) : KeepsForces s s := ⟨fun _ => rfl, fun _ h => h, fun _ h => .inl h⟩

theorem KeepsForces.trans {s t u : State} (h : KeepsForces s t) (k : KeepsForces t u) : KeepsForces s u where
  force z := (k.force z).trans (h.force z)
  waiting r hr := k.waiting r (h.waiting r hr)
  raised r hr := (k.raised r hr).elim (h.raised r) .inr

theorem reevaluate_keepsForces (z : ZoneId) (s : State) : KeepsForces s (reevaluate z s) := by
  rw [reevaluate_eq]
  split
  · exact .refl s
  · refine ⟨fun y => ?_, fun r hr => ?_, fun r hr => ?_⟩
    · rw [enterZone_zones, Table.get_set]
      split
      · next same => rw [same]
      · rfl
    · rw [enterZone_eq]
      exact raise_keeps hr
    · rw [enterZone_eq] at hr
      exact (mem_raise hr).imp_right fun h => ⟨_, _, _, _, h⟩

theorem reevaluateWhere_keepsForces (p : ZoneId → Bool) (s : State) : KeepsForces s (reevaluateWhere p s) :=
  foldl_frame KeepsForces.refl KeepsForces.trans (fun s z => by
    split
    · exact reevaluate_keepsForces z s
    · exact .refl s) _ s

/-- The LOCAL ramps of a zone end where re-evaluation takes it to HELD (R149). -/
theorem reevaluate_ramps (z : ZoneId) (s : State) : (reevaluate z s).ramps =
    if (s.zones.get z).state ≠ .held ∧ ((reevaluate z s).zones.get z).state = .held then
      s.ramps.filter fun r => !(decide (r.cls = .loc) && decide (r.zone = z)) else s.ramps := by
  rw [reevaluate_eq]
  generalize followedState _ _ _ = next
  split
  · next same => rw [if_neg fun h => h.1 h.2]
  · next moves =>
    rw [enterZone_ramps, enterZone_zones, Table.get_set_self]
    refine if_congr ⟨fun held => ⟨fun was => moves (held.trans was.symm), held⟩, fun h => h.2⟩ rfl rfl

/-! ## The relay of a rewritten circuit (R117, R158 to R163) -/

section
variable {old cs : CircuitSettings} {locked : Bool} {r : Relay}

theorem Relay.afterDwell_eq (b : Bool) : r.afterDwell cs locked b =
    if cs.align = true ∧ locked = true then { r with waiting := .atCrossing b } else Relay.apply cs b :=
  if_congr (by simp) rfl rfl

/-- A dwell that the new minimum has not yet reached goes on, whether or not it was over (R163). -/
theorem Relay.newDwell_of_more (ok : r.Sound old locked) (more : r.elapsed < cs.minimumDwell * 100) :
    r.newDwell cs locked = { r with
      dwellRunning := true
      waiting := match r.waiting with
        | .none => .none
        | .afterDwell b | .atCrossing b => .afterDwell b } := by
  rw [Relay.newDwell, if_pos more]
  cases w : r.waiting with
  | none => rfl
  | afterDwell b => rfl
  | atCrossing b =>
    have ended := (ok.atCrossing b w).2.1
    simp [ended]

/-- A dwell that the new minimum ends applies what waited for it, or places it at the next crossing (R160, R163). -/
theorem Relay.newDwell_of_less (less : ¬ r.elapsed < cs.minimumDwell * 100) :
    r.newDwell cs locked = match r.dwellRunning, r.waiting with
      | true, .afterDwell b => { r with dwellRunning := false }.afterDwell cs locked b
      | true, .none | true, .atCrossing _ => { r with dwellRunning := false }
      | false, _ => r := by
  have ended : ({ r with dwellRunning := false, elapsed := max r.elapsed (cs.minimumDwell * 100) } : Relay) =
      { r with dwellRunning := false } := by rw [Nat.max_eq_left (Nat.not_lt.mp less)]
  rw [Relay.newDwell, if_neg less, Relay.endDwell, ended]
  cases r.dwellRunning <;> cases r.waiting <;> rfl

/-- The relay once its dwell is rewritten. -/
def Relay.dwelled (old cs : CircuitSettings) (locked : Bool) (r : Relay) : Relay :=
  if old.minimumDwell = cs.minimumDwell then r else r.newDwell cs locked

/-- The relay once its alignment is rewritten. -/
def Relay.realigned (old cs : CircuitSettings) (r : Relay) : Relay := if old.align && !cs.align then r.cross cs else r

/-- A circuit rewritten, field by field. -/
theorem Circuit.rewrite_eq (c : Circuit) : c.rewrite old cs locked =
    { (if c.claims = [] ∧ old.rest ≠ cs.rest then c.headFor cs.rest cs.defaultFade else c) with
      request := if (old.law = .switched ↔ cs.law = .switched) then c.request else false
      relay := if old.law = .switched ∧ cs.law ≠ .switched then
          ((c.relay.dwelled old cs locked).realigned old cs).hand cs locked false
        else (c.relay.dwelled old cs locked).realigned old cs } := by
  have kept : (if c.claims = [] ∧ old.rest ≠ cs.rest then c.headFor cs.rest cs.defaultFade else c).relay = c.relay ∧
      (if c.claims = [] ∧ old.rest ≠ cs.rest then c.headFor cs.rest cs.defaultFade else c).request = c.request := by
    split
    · exact ⟨Circuit.headFor_relay _ _ _, Circuit.headFor_request _ _ _⟩
    · exact ⟨rfl, rfl⟩
  obtain ⟨relay, request⟩ := kept
  unfold Circuit.rewrite
  dsimp only
  generalize (if c.claims = [] ∧ old.rest ≠ cs.rest then c.headFor cs.rest cs.defaultFade else c) = headed at relay request ⊢
  rw [← relay, ← request]
  cases was : old.law <;> cases becomes : cs.law <;> simp [Relay.dwelled, Relay.realigned]

end

/-! ## The general settings (R169, R175, R185) -/

section
variable {g : GeneralSettings} {s : State}

/-- The mains tracker under a new nominal frequency (R169). -/
def Mains.renominated (m : Mains) : Mains :=
  { m with state := .acquiring, lockCount := 0, previous := none, silence := some 40 }

/-- The mains tracker under the settings that are written. -/
def Mains.nominated (old g : GeneralSettings) (m : Mains) : Mains := if old.nominal = g.nominal then m else m.renominated

/-- The silence timer under the settings that are written. -/
def SilenceTimer.timed (old g : GeneralSettings) (t : SilenceTimer) : SilenceTimer :=
  if old.silenceTimeout = g.silenceTimeout then t else silenceStart g.silenceTimeout

/-- A write takes a LOCKED tracker out of its lock. -/
abbrev Unlocks (g : GeneralSettings) (s : State) : Prop := s.settings.general.nominal ≠ g.nominal ∧ s.mains.state = .locked

/-- A write ends a LINK_SILENT that was active. -/
abbrev Speaks (g : GeneralSettings) (s : State) : Prop :=
  s.settings.general.silenceTimeout ≠ g.silenceTimeout ∧ s.silence = .expired

/-- The settings stored, the tracker taken, and the changes at a crossing applied where it unlocks. -/
def storedGeneral (g : GeneralSettings) (s : State) : State :=
  { s with
    settings := { s.settings with general := g }
    mains := s.mains.nominated s.settings.general g
    circuits := if Unlocks g s then (applyCrossings s).circuits else s.circuits }

/-- The MAINS report of the tracker's change, ahead of what the zones report. -/
def toldGeneral (g : GeneralSettings) (s : State) : State :=
  if s.settings.general.nominal ≠ g.nominal ∧ s.mains.state ≠ .acquiring then
    raise (.mains .acquiring s.mains.lastInterval) (storedGeneral g s)
  else storedGeneral g s

/-- The zones that mask MAINS_UNLOCKED told. -/
def trackedGeneral (g : GeneralSettings) (s : State) : State :=
  if Unlocks g s then reevaluateWhere (fun z => (s.settings.zones.get z).mask.getLsbD 11) (toldGeneral g s) else toldGeneral g s

/-- The silence timer restarted. -/
def silencedGeneral (g : GeneralSettings) (s : State) : State :=
  { trackedGeneral g s with silence := s.silence.timed s.settings.general g }

/-- The tracker's part of a write, in its stages. -/
theorem renominate_stages : (if s.settings.general.nominal = g.nominal then
      s.setSettings { s.settings with general := g } else renominate (s.setSettings { s.settings with general := g })) =
    trackedGeneral g s := by
  by_cases same : s.settings.general.nominal = g.nominal
  · have stays : ¬ Unlocks g s := fun h => h.1 same
    rw [if_pos same, trackedGeneral, if_neg stays, toldGeneral, if_neg (fun h => h.1 same), storedGeneral, if_neg stays,
      Mains.nominated, if_pos same]
    rfl
  · have circuits : (if s.mains.state = .locked ∧ MainsState.acquiring ≠ .locked then (applyCrossings s).circuits
        else s.circuits) = (storedGeneral g s).circuits :=
      if_congr ⟨fun h => ⟨same, h.1⟩, fun h => ⟨h.2, by decide⟩⟩ rfl rfl
    have stored : ({ s with
        settings := { s.settings with general := g }
        mains := s.mains.renominated
        circuits := (storedGeneral g s).circuits } : State) = storedGeneral g s := by
      rw [← show s.mains.nominated s.settings.general g = s.mains.renominated from if_neg same]
      rfl
    have told : (if s.mains.state = .acquiring then storedGeneral g s
        else raise (.mains .acquiring s.mains.lastInterval) (storedGeneral g s)) = toldGeneral g s := by
      rw [toldGeneral]
      by_cases acquiring : s.mains.state = .acquiring
      · rw [if_pos acquiring, if_neg fun h => h.2 acquiring]
      · rw [if_neg acquiring, if_pos ⟨same, acquiring⟩]
    have stages : renominate (s.setSettings { s.settings with general := g }) =
        if (s.mains.state = .locked ↔ MainsState.acquiring = .locked) then toldGeneral g s
        else reevaluateWhere (fun z => (s.settings.zones.get z).mask.getLsbD 11) (toldGeneral g s) := by
      rw [← told, ← stored]
      exact changeMains_of_circuits (m := s.mains.renominated) (s := s.setSettings { s.settings with general := g }) circuits
    rw [if_neg same, stages, trackedGeneral]
    by_cases locked : s.mains.state = .locked
    · rw [if_neg (by simp [locked]), if_pos ⟨same, locked⟩]
    · rw [if_pos (by simp [locked]), if_neg fun h => locked h.2]

/-- The tracker's report moves no zone and ends no ramp. -/
theorem toldGeneral_leaves : (toldGeneral g s).zones = s.zones ∧ (toldGeneral g s).ramps = s.ramps := by
  unfold toldGeneral
  split
  · exact ⟨raise_zones _ _, raise_ramps _ _⟩
  · exact ⟨rfl, rfl⟩

/-- The stages up to the silence timer reach nothing but the tracker, the circuits and the zones. -/
theorem trackedGeneral_frame : OnlyZones (storedGeneral g s) (trackedGeneral g s) := by
  have told : OnlyZones (storedGeneral g s) (toldGeneral g s) := by
    unfold toldGeneral
    split
    · exact (raise_frame _ _).zones
    · exact .refl _
  unfold trackedGeneral
  split
  · exact told.trans (reevaluateWhere_frame _ _)
  · exact told

theorem trackedGeneral_leaves :
    (trackedGeneral g s).silence = s.silence ∧ (trackedGeneral g s).settings.zones = s.settings.zones :=
  ⟨(congrArg State.silence (trackedGeneral_frame (g := g) (s := s))).trans rfl,
    (congrArg Settings.zones (trackedGeneral_frame (g := g) (s := s)).core.settings).trans rfl⟩

/-- A write of the general settings, in its stages. -/
theorem writeGeneral_stages : writeGeneral g s =
    if Speaks g s then reevaluateWhere (fun z => (s.settings.zones.get z).mask.getLsbD 10) (silencedGeneral g s)
    else silencedGeneral g s := by
  obtain ⟨silence, zones⟩ := trackedGeneral_leaves (g := g) (s := s)
  have tracked : writeGeneral g s = if s.settings.general.silenceTimeout = g.silenceTimeout then trackedGeneral g s
      else setSilence (silenceStart g.silenceTimeout) (trackedGeneral g s) := by
    rw [← renominate_stages]
    rfl
  have before : linkSilent (trackedGeneral g s) = decide (s.silence = .expired) := by unfold linkSilent; rw [silence]
  rw [tracked, silencedGeneral, SilenceTimer.timed]
  by_cases same : s.settings.general.silenceTimeout = g.silenceTimeout
  · rw [if_pos same, if_pos same, if_neg fun h : Speaks g s => h.1 same, ← silence]
  · rw [if_neg same, if_neg same]
    by_cases expired : s.silence = .expired
    · rw [if_pos (show Speaks g s from ⟨same, expired⟩), setSilence_of_change (by
        rw [before, linkSilent_silenceStart, decide_eq_true expired]; decide)]
      unfold masks
      rw [zones]
      rfl
    · rw [if_neg fun h : Speaks g s => expired h.2, setSilence_of_same (by
        rw [before, linkSilent_silenceStart, decide_eq_false expired])]

theorem writeGeneral_frame : OnlyZones
    { storedGeneral g s with silence := s.silence.timed s.settings.general g } (writeGeneral g s) := by
  have silenced : OnlyZones { storedGeneral g s with silence := s.silence.timed s.settings.general g }
      (silencedGeneral g s) := by
    have tracked := trackedGeneral_frame (g := g) (s := s)
    unfold silencedGeneral OnlyZones at *
    rw [tracked]
  rw [writeGeneral_stages]
  split
  · exact silenced.trans (reevaluateWhere_frame _ _)
  · exact silenced

/-- Where no LINK_SILENT ends, the condition stays as it was. -/
theorem linkSilent_silencedGeneral (quiet : ¬ Speaks g s) :
    linkSilent (silencedGeneral g s) = linkSilent (trackedGeneral g s) := by
  obtain ⟨silence, -⟩ := trackedGeneral_leaves (g := g) (s := s)
  unfold linkSilent silencedGeneral
  dsimp only
  rw [silence, SilenceTimer.timed]
  by_cases same : s.settings.general.silenceTimeout = g.silenceTimeout
  · rw [if_pos same]
  · rw [if_neg same, decide_eq_false (silenceStart_ne_expired _), decide_eq_false fun expired => quiet ⟨same, expired⟩]

/-- A zone that no LINK_SILENT ends for is called after the silence timer's restart where it was before it. -/
theorem called_silencedGeneral {z : ZoneId} (quiet : ¬ (Speaks g s ∧ (s.settings.zones.get z).mask.getLsbD 10 = true)) :
    called (silencedGeneral g s) z = called (trackedGeneral g s) z := by
  obtain ⟨-, zones⟩ := trackedGeneral_leaves (g := g) (s := s)
  have masked : activeMasked (silencedGeneral g s) z = activeMasked (trackedGeneral g s) z :=
    activeMasked_congr rfl (masked_unchanged _ _) rfl rfl (fun masks => linkSilent_silencedGeneral fun speaks =>
      quiet ⟨speaks, by unfold Machine.masks at masks; rw [zones] at masks; exact masks⟩) fun _ => rfl
  unfold called
  rw [masked]
  rfl

/-- The zones that a write tells (R169, R170, R175). -/
theorem writeGeneral_zones (z : ZoneId) :
    ((Unlocks g s ∧ (s.settings.zones.get z).mask.getLsbD 11 = true) ∨
        (Speaks g s ∧ (s.settings.zones.get z).mask.getLsbD 10 = true) →
      (((writeGeneral g s).zones.get z).state = .held ↔ called (writeGeneral g s) z = true)) ∧
    (¬(Unlocks g s ∧ (s.settings.zones.get z).mask.getLsbD 11 = true) →
      ¬(Speaks g s ∧ (s.settings.zones.get z).mask.getLsbD 10 = true) →
        (writeGeneral g s).zones.get z = s.zones.get z) := by
  have unheard (quiet : ¬(Speaks g s ∧ (s.settings.zones.get z).mask.getLsbD 10 = true)) :
      (writeGeneral g s).zones.get z = (trackedGeneral g s).zones.get z ∧
        called (writeGeneral g s) z = called (trackedGeneral g s) z := by
    rw [writeGeneral_stages, ← called_silencedGeneral quiet]
    split
    · next speaks =>
      exact ⟨reevaluateWhere_unconcerned (Bool.eq_false_iff.2 fun masked => quiet ⟨speaks, masked⟩) _,
        reevaluateWhere_called _ _ _⟩
    · exact ⟨rfl, rfl⟩
  obtain ⟨told, -⟩ := toldGeneral_leaves (g := g) (s := s)
  refine ⟨fun concerned => ?_, fun unmasked quiet => ?_⟩
  · by_cases speaks : Speaks g s ∧ (s.settings.zones.get z).mask.getLsbD 10 = true
    · rw [writeGeneral_stages, if_pos speaks.1]
      exact reevaluateWhere_held_iff (p := fun z => (s.settings.zones.get z).mask.getLsbD 10) speaks.2 _
    · obtain ⟨unlocks, masked⟩ := concerned.resolve_right speaks
      rw [(unheard speaks).1, (unheard speaks).2, trackedGeneral, if_pos unlocks]
      exact reevaluateWhere_held_iff (p := fun z => (s.settings.zones.get z).mask.getLsbD 11) masked _
  · rw [(unheard quiet).1, ← told, trackedGeneral]
    split
    · next unlocks => exact reevaluateWhere_unconcerned (Bool.eq_false_iff.2 fun masked => unmasked ⟨unlocks, masked⟩) _
    · rfl

/-- Where no zone is told, no ramp ends. -/
theorem writeGeneral_ramps (stays : ¬ Unlocks g s) (quiet : ¬ Speaks g s) : (writeGeneral g s).ramps = s.ramps := by
  rw [writeGeneral_stages, if_neg quiet, silencedGeneral, trackedGeneral, if_neg stays]
  exact toldGeneral_leaves.2

/-- The forces and the reports that a write leaves: the report of the tracker first, then those of the zones. -/
theorem writeGeneral_keepsForces : KeepsForces (toldGeneral g s) (writeGeneral g s) := by
  have tracked : KeepsForces (toldGeneral g s) (silencedGeneral g s) := by
    have told : KeepsForces (toldGeneral g s) (trackedGeneral g s) := by
      unfold trackedGeneral
      split
      · exact reevaluateWhere_keepsForces _ _
      · exact .refl _
    exact ⟨told.force, told.waiting, told.raised⟩
  rw [writeGeneral_stages]
  split
  · exact tracked.trans (reevaluateWhere_keepsForces _ _)
  · exact tracked

/-- The reports of a write are those that waited, the tracker's, and the zones'. -/
theorem writeGeneral_reports {r : Report} (h : r ∈ (writeGeneral g s).reports) : r ∈ s.reports ∨
    (s.settings.general.nominal ≠ g.nominal ∧ r = .mains .acquiring s.mains.lastInterval) ∨ r.OfZone := by
  refine (writeGeneral_keepsForces.raised r h).elim (fun told => ?_) fun zone => .inr (.inr zone)
  unfold toldGeneral at told
  split at told
  · next tells => exact (mem_raise told).imp_right fun same => .inl ⟨tells.1, same⟩
  · exact .inl told

/-- The tracker's report finds room wherever fewer than 32 wait (notes/assumptions/8.md). -/
theorem writeGeneral_tells (new : s.settings.general.nominal ≠ g.nominal) (moves : s.mains.state ≠ .acquiring)
    (on : g.reportMask.getLsbD 4 = true) (room : s.reports.length < 32) :
    (.mains .acquiring s.mains.lastInterval : Report) ∈ (writeGeneral g s).reports := by
  refine writeGeneral_keepsForces.waiting _ ?_
  rw [toldGeneral, if_pos ⟨new, moves⟩, raise_of_room (show (storedGeneral g s).reports.length < 32 from room)]
  refine List.mem_append_right _ ?_
  have kept : (storedGeneral g s).settings.general.reportMask.getLsbD
      (Report.mains .acquiring s.mains.lastInterval).category.bit = true := on
  rw [if_pos kept]
  exact List.mem_singleton_self _

end

end Sys2Proof.Machine

/-! PROOFS. What the writes that hand nothing to a gesture store, and what they reach (R57 to R61, R83 to R86, R117, R141, R152,
R185). -/

namespace Sys2Proof.Machine

/-! ## The requests carried out -/

section
variable {p : List Byte} {s : State} (notSaving : s.saving = false)
include notSaving

/-- While no save is under way, no write is turned away as BUSY. -/
theorem taken_not_saving : ¬ (s.taken.saving = true) := by
  rw [show s.taken.saving = s.saving from rfl, notSaving]
  decide

theorem putBinding_clears {b : SlotId} (h : RequestHeads 0x33 p s) (size : p.length = 2) (slot : idOf 512 (wordAt p 0) = some b) :
    exec (.putBinding p) s = .next (replied 0x33 .done [] (writeBinding b none s.taken)) := by
  refine request_done h ?_
  unfold carryPutBinding
  rw [if_neg (by simp [size]), if_neg (taken_not_saving notSaving), if_pos size, slot]

theorem putBinding_stores {b : SlotId} {x : Binding} (h : RequestHeads 0x33 p s) (size : p.length = 15)
    (read : bindingOf p = some (b, x)) (allowed : x.cls = .egress → egressAllowed x.source s = true) :
    exec (.putBinding p) s = .next (replied 0x33 .done [] (writeBinding b (some x) s.taken)) := by
  refine request_done h ?_
  unfold carryPutBinding
  rw [if_neg (by simp [size]), if_neg (taken_not_saving notSaving), if_neg (by simp [size]), read]
  refine if_neg fun ⟨egress, denied⟩ => ?_
  have permitted : egressAllowed x.source s.taken = true := allowed egress
  rw [denied] at permitted
  cases permitted

theorem putScene_stores {sc : SceneId} {c : Scene} (h : RequestHeads 0x34 p s) (long : 19 ≤ p.length)
    (size : p.length = 19 + 3 * sceneCount p) (read : sceneOf p = some (sc, c)) (once : repeatsCircuit c.entries = false)
    (room : hasRoom sc c.entries.length s = true) :
    exec (.putScene p) s = .next (replied 0x34 .done [] (writeScene sc c s.taken)) := by
  refine request_done h ?_
  unfold carryPutScene
  rw [if_neg (by omega), if_neg (taken_not_saving notSaving), read]
  dsimp only
  rw [if_neg (by rw [once]; decide)]
  exact if_pos room

theorem putCircuit_stores {c : CircuitId} {cs : CircuitSettings} (h : RequestHeads 0x35 p s) (size : p.length = 16)
    (read : circuitOf p = some (c, cs)) :
    exec (.putCircuit p) s = .next (replied 0x35 .done [] (writeCircuit c cs s.taken)) := by
  refine request_done h ?_
  unfold carryPutCircuit
  rw [if_neg (by simp [size]), if_neg (taken_not_saving notSaving), read]

theorem putZone_stores {z : ZoneId} {zs : ZoneSettings} (h : RequestHeads 0x36 p s) (size : p.length = 20)
    (read : zoneOf p = some (z, zs)) : exec (.putZone p) s = .next (replied 0x36 .done [] (writeZone z zs s.taken)) := by
  refine request_done h ?_
  unfold carryPutZone
  rw [if_neg (by simp [size]), if_neg (taken_not_saving notSaving), read]

theorem putAnnunciator_stores {a : AnnunciatorId} {f : AnnunciatorFunction} (h : RequestHeads 0x37 p s) (size : p.length = 3)
    (read : annunciatorOf p = some (a, f)) :
    exec (.putAnnunciator p) s = .next (replied 0x37 .done [] (writeAnnunciator a f s.taken)) := by
  refine request_done h ?_
  unfold carryPutAnnunciator
  rw [if_neg (by simp [size]), if_neg (taken_not_saving notSaving), read]

theorem putGeneral_stores {g : GeneralSettings} (h : RequestHeads 0x38 p s) (size : p.length = 5)
    (read : generalOf p = some g) : exec (.putGeneral p) s = .next (replied 0x38 .done [] (writeGeneral g s.taken)) := by
  refine request_done h ?_
  unfold carryPutGeneral
  rw [if_neg (by simp [size]), if_neg (taken_not_saving notSaving), read]

end

/-! ## The relay of a rewritten circuit, as the rule gives it (R160, R161, R163) -/

section
variable {old cs : CircuitSettings} {locked : Bool} {r : Relay} {placed : Bool → Relay → Relay}

/-- The dwell ends at the last change plus the new minimum dwell (R163). -/
theorem Relay.dwelled_eq (ok : r.Sound old locked) (places : ∀ b q, placed b q = q.afterDwell cs locked b) :
    (if old.minimumDwell = cs.minimumDwell then r
      else if r.elapsed < cs.minimumDwell * 100 then
        { r with
          dwellRunning := true
          waiting := match r.waiting with
            | .none => .none
            | .afterDwell b | .atCrossing b => .afterDwell b }
      else match r.dwellRunning, r.waiting with
        | true, .afterDwell b => placed b { r with dwellRunning := false }
        | true, .none | true, .atCrossing _ => { r with dwellRunning := false }
        | false, _ => r) = r.dwelled old cs locked := by
  unfold Relay.dwelled
  split
  · rfl
  · split
    · next more => exact (Relay.newDwell_of_more ok more).symm
    · next less =>
      rw [Relay.newDwell_of_less less]
      cases r.dwellRunning with
      | false => cases r.waiting <;> rfl
      | true =>
        cases r.waiting with
        | afterDwell b => exact places _ _
        | none => rfl
        | atCrossing b => rfl

/-- With align switched off, a change at a crossing is applied (R163). -/
theorem Relay.realigned_eq : (match r.waiting with
      | .atCrossing b => if old.align = true ∧ cs.align = false then Relay.apply cs b else r
      | .none | .afterDwell _ => r) = r.realigned old cs := by
  unfold Relay.realigned Relay.cross
  cases r.waiting with
  | atCrossing b => exact if_congr (by simp) rfl rfl
  | none => exact (ite_self _).symm
  | afterDwell b => exact (ite_self _).symm

/-- The request OFF handed to the sequencer (R117, R158). -/
theorem Relay.hand_off (places : ∀ b q, placed b q = q.afterDwell cs locked b) :
    (if r.state = false then { r with waiting := .none }
      else match r.waiting with
        | .afterDwell _ => { r with waiting := .afterDwell false }
        | .atCrossing _ => { r with waiting := .atCrossing false }
        | .none => if r.dwellRunning then { r with waiting := .afterDwell false } else placed false r) =
      r.hand cs locked false := by
  unfold Relay.hand
  rw [if_congr (show r.state = false ↔ false = r.state from eq_comm) rfl rfl]
  refine congrArg (fun q => if false = r.state then _ else q) ?_
  cases r.waiting with
  | none => rw [← places]
  | afterDwell b => rfl
  | atCrossing b => rfl

end

/-! ## The statement -/

/-- Settles O44: each write by its equation. -/
theorem putsStoreTheirRecords : Obligations.PutsStoreTheirRecords := by
  intro p s notSaving
  refine ⟨fun b h size slot => putBinding_clears notSaving h size slot,
    fun b x h size read allowed => putBinding_stores notSaving h size read allowed,
    fun sc c h long size read once room => putScene_stores notSaving h long size read once room,
    fun c cs h size read ok => ?_, fun z zs h size read => ?_,
    fun a f h size read => putAnnunciator_stores notSaving h size read, fun g h size read => ?_⟩
  · intro old x changed placed dwelt aligned handedOff headed
    have placing (b : Bool) (r : Relay) : placed b r = r.afterDwell cs (mainsLocked s) b := by
      rw [Relay.afterDwell_eq]
      exact if_congr (by rw [mainsLocked, decide_eq_true_iff]) rfl rfl
    have dwell : dwelt = x.relay.dwelled old cs (mainsLocked s) := Relay.dwelled_eq (relaysInOrder_iff.1 ok c).relay placing
    have align : aligned = (x.relay.dwelled old cs (mainsLocked s)).realigned old cs := dwell ▸ Relay.realigned_eq
    have off : handedOff = ((x.relay.dwelled old cs (mainsLocked s)).realigned old cs).hand cs (mainsLocked s) false :=
      align ▸ Relay.hand_off placing
    rw [putCircuit_stores notSaving h size read, off, align]
    refine congrArg (fun record => Host.Outcome.next (replied 0x35 .done [] { s.taken with
      settings := { s.settings with circuits := s.settings.circuits.set c cs }, circuits := s.circuits.set c record })) ?_
    exact Circuit.rewrite_eq x
  · let stored : State := { s.taken with settings := { s.settings with zones := s.settings.zones.set z zs } }
    refine ⟨reevaluate z stored, putZone_stores notSaving h size read, rfl, reevaluate_frame z stored, fun y other =>
      reevaluate_other other stored, reevaluate_held_iff z stored, (reevaluate_keepsForces z stored).force z,
      reevaluate_ramps z stored⟩
  · intro renominated retimed unlocks speaks
    refine ⟨writeGeneral g s.taken, putGeneral_stores notSaving h size read, ?_⟩
    have frame := writeGeneral_frame (g := g) (s := s.taken)
    have core := frame.core
    have mains : (writeGeneral g s.taken).mains = s.mains.nominated s.settings.general g := core.mains
    have circuits : (writeGeneral g s.taken).circuits = (storedGeneral g s.taken).circuits := core.circuits
    have silence : (writeGeneral g s.taken).silence = s.silence.timed s.settings.general g :=
      (congrArg State.silence frame).trans rfl
    refine ⟨?_, ?_, fun same => ?_, fun new => ?_, fun same => ?_, fun new => ?_, fun stays => ?_, fun unlocks n => ?_,
      fun z concerned => ?_, fun z => (writeGeneral_zones (g := g) (s := s.taken) z).2, ?_, ?_, ?_⟩
    · intro stored told tracked silenced
      have isStored : stored = storedGeneral g s.taken := by
        show ({ s.taken with settings := _, mains := _, circuits := _ } : State) = _
        rw [mains, circuits]
        rfl
      have isTracked : tracked = trackedGeneral g s.taken := by
        clear_value stored
        subst isStored
        rfl
      have isSilenced : silenced = silencedGeneral g s.taken := by
        show ({ tracked with silence := _ } : State) = _
        rw [silence, isTracked]
        rfl
      rw [isSilenced]
      exact writeGeneral_stages
    · rw [mains, circuits, silence]
      exact frame
    · exact mains.trans (if_pos (not_not.1 same))
    · exact mains.trans (if_neg new)
    · exact silence.trans (if_pos (not_not.1 same))
    · exact (silence.trans (if_neg new)).trans (silenceStart_eq _)
    · exact circuits.trans (if_neg stays)
    · rw [circuits, storedGeneral, if_pos (show Unlocks g s.taken from unlocks)]
      exact applyCrossings_get s.taken n
    · exact ⟨(writeGeneral_zones (g := g) (s := s.taken) z).1 concerned,
        ((writeGeneral_keepsForces (g := g) (s := s.taken)).force z).trans (congrArg (fun t : Table Zone 16 => (t.get z).force)
          toldGeneral_leaves.1)⟩
    · exact writeGeneral_ramps (g := g) (s := s.taken)
    · exact fun r => writeGeneral_reports (g := g) (s := s.taken)
    · exact writeGeneral_tells (g := g) (s := s.taken)

end Sys2Proof.Machine

/-! PROOFS. The fields of a request, read where its record is read (R177, order 5). -/

namespace Sys2Proof.Machine

/-! ## One field -/

/-- A field read before the others fails with them. -/
theorem isSome_bind {α β : Type} {x : Option α} {f : α → Option β} {b c : Bool} (first : x.isSome = b)
    (rest : ∀ a, x = some a → (f a).isSome = c) : (x >>= f).isSome = (b && c) := by
  cases x with
  | none => rw [← first]; rfl
  | some a => rw [← first, ← rest a rfl]; rfl

theorem lies_eq (low high n : Nat) : lies low high n = decide (low ≤ n ∧ n ≤ high) := (Bool.decide_and _ _).symm

theorem isSome_ite {α : Type} {p : Prop} [Decidable p] (a : α) : (if p then some a else none).isSome = decide p := by
  split <;> simp [*]

theorem isSome_dite {α : Type} {p : Prop} [Decidable p] (f : p → α) : (if h : p then some (f h) else none).isSome = decide p := by
  split <;> simp [*]

theorem isSome_idOf (n k : Nat) : (idOf n k).isSome = lies 1 n k := (isSome_dite _).trans (lies_eq 1 n k).symm

theorem idOf_val {n k : Nat} {i : Fin n} (h : idOf n k = some i) : k = i.val + 1 := by
  unfold idOf at h
  split at h
  · cases h
    simp
    omega
  · cases h

theorem isSome_within (low high n : Nat) : (within low high n).isSome = lies low high n :=
  (isSome_ite _).trans (lies_eq low high n).symm

theorem isSome_boolOf (n : Nat) : (boolOf n).isSome = lies 0 1 n := by
  match n with
  | 0 | 1 => rfl
  | n + 2 => simp [boolOf, lies]

theorem boolOf_val {n : Nat} {b : Bool} (h : boolOf n = some b) : n = b.toNat := by
  match n with
  | 0 | 1 => cases h; rfl
  | n + 2 => cases h

theorem isSome_function (n : Nat) : (InputFunction.ofCode n).isSome = lies 0 1 n := by
  match n with
  | 0 | 1 => rfl
  | n + 2 => simp [InputFunction.ofCode, lies]

theorem function_val {n : Nat} {f : InputFunction} (h : InputFunction.ofCode n = some f) : n = f.code := by
  match n with
  | 0 | 1 => cases h; rfl
  | n + 2 => cases h

theorem isSome_kind (n : Nat) : (GestureKind.ofCode n).isSome = lies 0 1 n := by
  match n with
  | 0 | 1 => rfl
  | n + 2 => simp [GestureKind.ofCode, lies]

theorem isSome_sense (n : Nat) : (Sense.ofCode n).isSome = lies 0 1 n := by
  match n with
  | 0 | 1 => rfl
  | n + 2 => simp [Sense.ofCode, lies]

theorem isSome_noise (n : Nat) : (NoiseWidth.ofCode n).isSome = lies 0 3 n := by
  match n with
  | 0 | 1 | 2 | 3 => rfl
  | n + 4 => simp [NoiseWidth.ofCode, lies]

theorem isSome_class (n : Nat) : (ClaimClass.ofCode n).isSome = lies 0 3 n := by
  match n with
  | 0 | 1 | 2 | 3 => rfl
  | n + 4 => simp [ClaimClass.ofCode, lies]

theorem class_val {n : Nat} {c : ClaimClass} (h : ClaimClass.ofCode n = some c) : n = c.code := by
  match n with
  | 0 | 1 | 2 | 3 => cases h; rfl
  | n + 4 => cases h

theorem isSome_bindingClass (n : Nat) : (BindingClass.ofCode n).isSome = lies 1 3 n := by
  match n with
  | 0 | 1 | 2 | 3 => rfl
  | n + 4 => simp [BindingClass.ofCode, lies]

theorem bindingClass_val {n : Nat} {c : BindingClass} (h : BindingClass.ofCode n = some c) : n = c.code := by
  match n with
  | 1 | 2 | 3 => cases h; rfl
  | 0 | n + 4 => cases h

theorem isSome_trigger (n : Nat) : (Trigger.ofCode n).isSome = lies 1 5 n := by
  match n with
  | 0 | 1 | 2 | 3 | 4 | 5 => rfl
  | n + 6 => simp [Trigger.ofCode, lies]

theorem isSome_law (n : Nat) : (Law.ofCode n).isSome = lies 0 2 n := by
  match n with
  | 0 | 1 | 2 => rfl
  | n + 3 => simp [Law.ofCode, lies]

theorem isSome_mode (n : Nat) : (ReleaseMode.ofCode n).isSome = lies 0 1 n := by
  match n with
  | 0 | 1 => rfl
  | n + 2 => simp [ReleaseMode.ofCode, lies]

theorem isSome_nominal (n : Nat) : (Nominal.ofCode n).isSome = lies 0 1 n := by
  match n with
  | 0 | 1 => rfl
  | n + 2 => simp [Nominal.ofCode, lies]

theorem isSome_mask (n : Nat) : (maskOf n).isSome = lies 0 4095 n := by
  rw [maskOf, isSome_ite, lies_eq]
  exact decide_eq_decide.2 (by omega)

theorem isSome_reportMask (n : Nat) : (reportMaskOf n).isSome = lies 0 127 n := by
  rw [reportMaskOf, isSome_ite, lies_eq]
  exact decide_eq_decide.2 (by omega)

theorem isSome_delay (n : Nat) : (delayOf n).isSome = decide (n ∈ [0, 5, 10, 30, 60, 120]) := isSome_ite _

/-! ## The compound fields -/

theorem isSome_source (kind unit button : Nat) : (sourceOf kind unit button).isSome = sourceInRange kind unit button := by
  match kind with
  | 1 =>
    have zero : lies 0 0 button = decide (button = 0) := by rw [lies_eq]; exact decide_eq_decide.2 (by omega)
    show (if button = 0 then (idOf 48 unit).map Source.contact else none).isSome = (lies 1 48 unit && lies 0 0 button)
    rw [zero, ← isSome_idOf]
    split <;> simp [*]
  | 2 => exact isSome_bind (isSome_idOf 8 unit) fun _ _ => Option.isSome_map.trans (isSome_idOf 6 button)
  | 3 => exact isSome_bind (isSome_idOf 32 unit) fun _ _ => Option.isSome_map.trans (isSome_idOf 8 button)
  | 0 | n + 4 => rfl

theorem isSome_bindingFade (n : Nat) : (bindingFade n).isSome = (decide (n = 0xFFFF) || lies 0 3000 n) := by
  unfold bindingFade absentFade
  split
  · next h => simp [h]
  · next h => rw [Option.isSome_map, isSome_within]; simp [h]

theorem isSome_action (code target level fade : Nat) :
    (actionOf code target level fade).isSome = actionInRange code target level fade := by
  have faded {n : Nat} (f : Fin n → Option Nat → Action) :
      ((idOf n target).bind fun i => (bindingFade fade).map (f i)).isSome =
        (lies 1 n target && (decide (fade = 0xFFFF) || lies 0 3000 fade)) :=
    isSome_bind (isSome_idOf n target) fun _ _ => Option.isSome_map.trans (isSome_bindingFade fade)
  have named {n : Nat} (f : Fin n → Action) : ((idOf n target).map f).isSome = lies 1 n target :=
    Option.isSome_map.trans (isSome_idOf n target)
  match code with
  | 1 | 2 | 3 | 5 | 8 => exact faded _
  | 4 =>
    rw [show actionInRange 4 target level fade = (lies 1 128 target && (lies 0 1000 level &&
      (decide (fade = 0xFFFF) || lies 0 3000 fade))) from Bool.and_assoc _ _ _]
    exact isSome_bind (isSome_idOf 128 target) fun _ _ => isSome_bind (isSome_within 0 1000 level) fun _ _ =>
      Option.isSome_map.trans (isSome_bindingFade fade)
  | 6 | 7 | 9 | 10 | 11 | 12 | 13 => exact named _
  | 14 => rfl
  | 0 | n + 15 => rfl

theorem isSome_indicator (mode argument : Nat) : (indicatorOf mode argument).isSome = indicatorInRange mode argument := by
  match mode with
  | 0 | 1 => rfl
  | 2 => exact Option.isSome_map.trans (isSome_idOf 96 argument)
  | 3 => exact Option.isSome_map.trans (isSome_idOf 16 argument)
  | 4 => exact Option.isSome_map.trans (isSome_idOf 8 argument)
  | n + 5 => rfl

theorem isSome_functionOf (code argument : Nat) : (functionOf code argument).isSome =
    (lies 0 6 code && (decide (code ≠ 1) || lies 1 16 argument) && (decide (code ≠ 2) || lies 1 8 argument)) := by
  match code with
  | 0 | 3 | 4 | 5 | 6 => rfl
  | 1 => rw [show functionOf 1 argument = (idOf 16 argument).map .zoneHeld from rfl, Option.isSome_map, isSome_idOf]; simp [lies]
  | 2 => rw [show functionOf 2 argument = (idOf 8 argument).map .flag from rfl, Option.isSome_map, isSome_idOf]; simp [lies]
  | n + 7 => simp [functionOf, lies]

/-! ## Names, windows and entries -/

theorem byteAt_drop (p : List Byte) (k i : Nat) : byteAt (p.drop k) i = byteAt p (k + i) := by
  unfold byteAt
  rw [List.getD_eq_getElem?_getD, List.getD_eq_getElem?_getD, List.getElem?_drop]

theorem wordAt_drop (p : List Byte) (k i : Nat) : wordAt (p.drop k) i = wordAt p (k + i) := by
  rw [wordAt, wordAt, byteAt_drop, byteAt_drop, Nat.add_assoc]

theorem byteAt_getElem {p : List Byte} {i : Nat} (h : i < p.length) : byteAt p i = p[i].toNat := by
  rw [byteAt, List.getD_eq_getElem?_getD, List.getElem?_eq_getElem h]
  rfl

/-- A name whose field lies within the payload is read where its length and its characters are in range. -/
theorem isSome_name {p : List Byte} {i : Nat} (long : i + 13 ≤ p.length) : (nameAt p i).isSome = nameInRange p i := by
  have chars (short : byteAt p i ≤ 12) : (((p.drop (i + 1)).take (byteAt p i)).all fun c =>
      decide (32 ≤ c.toNat) && decide (c.toNat ≤ 126)) = (List.range (byteAt p i)).all fun j => lies 32 126 (byteAt p (i + 1 + j)) := by
    rw [Bool.eq_iff_iff, List.all_eq_true, List.all_eq_true]
    constructor
    · intro all j inside
      have here : j < ((p.drop (i + 1)).take (byteAt p i)).length := by
        simp only [List.length_take, List.length_drop]
        have := List.mem_range.1 inside
        omega
      have char := all _ (List.getElem_mem here)
      rw [List.getElem_take, List.getElem_drop] at char
      rwa [byteAt_getElem (by have := List.mem_range.1 inside; omega)]
    · intro all c inside
      obtain ⟨j, here, rfl⟩ := List.getElem_of_mem inside
      have low : j < byteAt p i := by simp only [List.length_take] at here; omega
      have char := all j (List.mem_range.2 low)
      rw [List.getElem_take, List.getElem_drop]
      rw [byteAt_getElem (by omega)] at char
      exact char
  unfold nameAt nameInRange
  dsimp only
  rw [isSome_ite, lies_eq]
  by_cases short : byteAt p i ≤ 12
  · rw [Bool.decide_and, ← chars short, Bool.decide_eq_true]
    simp [short]
  · simp [short]

/-- The entries of a list of whole triples are read where each of them is in range. -/
theorem isSome_entries (l : List Byte) (n : Nat) (size : l.length = 3 * n) : (entriesOf l).isSome =
    (List.range n).all fun j => lies 1 128 (byteAt l (3 * j)) && lies 0 1000 (wordAt l (3 * j + 1)) := by
  induction n generalizing l with
  | zero =>
    rw [List.eq_nil_of_length_eq_zero size]
    rfl
  | succ n ih =>
    match l, size with
    | c :: b :: h :: rest, size =>
      simp only [List.length_cons] at size
      have first : lies 1 128 (byteAt (c :: b :: h :: rest) (3 * 0)) = lies 1 128 c.toNat := rfl
      have rest_ : ((List.range n).all fun j => lies 1 128 (byteAt (c :: b :: h :: rest) (3 * (j + 1))) &&
          lies 0 1000 (wordAt (c :: b :: h :: rest) (3 * (j + 1) + 1))) = (entriesOf rest).isSome := by
        rw [ih rest (by omega)]
        rfl
      rw [List.range_succ_eq_map, List.all_cons, List.all_map]
      refine (isSome_bind (isSome_idOf 128 c.toNat) fun _ _ => isSome_bind (isSome_within 0 1000 _) fun _ _ =>
        isSome_bind (b := (entriesOf rest).isSome) (c := true) rfl fun _ _ => rfl).trans ?_
      rw [Bool.and_true, ← Bool.and_assoc, ← rest_]
      rfl

/-- The entries that are read name the circuits of their triples. -/
theorem entriesOf_circuits {l : List Byte} {n : Nat} (size : l.length = 3 * n) {entries : List SceneEntry}
    (read : entriesOf l = some entries) : entries.length = n ∧
      ∀ j, ∀ h : j < entries.length, byteAt l (3 * j) = (entries[j]).circuit.val + 1 := by
  induction n generalizing l entries with
  | zero =>
    rw [List.eq_nil_of_length_eq_zero size] at read
    cases read
    exact ⟨rfl, nofun⟩
  | succ n ih =>
    match l, size with
    | c :: b :: h :: rest, size =>
      simp only [List.length_cons] at size
      have chain : ((idOf 128 c.toNat).bind fun circuit => (within 0 1000 (b.toNat + 256 * h.toNat)).bind fun level =>
        (entriesOf rest).bind fun more => some (({ circuit, level } : SceneEntry) :: more)) = some entries := read
      obtain ⟨circuit, first, chain⟩ := Option.bind_eq_some_iff.1 chain
      obtain ⟨level, -, chain⟩ := Option.bind_eq_some_iff.1 chain
      obtain ⟨more, others, chain⟩ := Option.bind_eq_some_iff.1 chain
      cases chain
      obtain ⟨count, circuits⟩ := ih (by omega) others
      refine ⟨by rw [List.length_cons, count], fun j inside => ?_⟩
      cases j with
      | zero => exact idOf_val first
      | succ j => exact circuits j (by simpa using inside)

/-- The windows of a payload are in range, and the defined ones apart, where its fields say so (R10, R11). -/
theorem windowFields_eq (p : List Byte) :
    (windowsInRange (windowsAt p) && windowsApart (byteAt p 1) (windowsAt p)) = windowFieldsInRange p := by
  have window (w : Fin 7) : (windowsAt p).get w = { low := wordAt p (2 + 4 * w.val), high := wordAt p (4 + 4 * w.val) } :=
    Table.get_ofFn _ _
  unfold windowFieldsInRange
  congr 1
  · unfold windowsInRange
    rw [Bool.eq_iff_iff, List.all_eq_true, List.all_eq_true]
    simp only [Table.mem_items, Bool.and_eq_true, decide_eq_true_eq, List.mem_range]
    constructor
    · intro all w inside
      have := all _ ⟨⟨w, inside⟩, rfl⟩
      rw [window] at this
      exact ⟨this.2, this.1.2⟩
    · rintro all _ ⟨w, rfl⟩
      rw [window]
      obtain ⟨ordered, bound⟩ := all w.val w.isLt
      exact ⟨⟨ordered.trans bound, bound⟩, ordered⟩
  · unfold windowsApart Window.overlaps
    rw [Bool.eq_iff_iff]
    simp only [List.all_eq_true, List.mem_range, Prod.forall, Table.mem_indexed_take, Bool.or_eq_true, Bool.not_eq_true',
      Bool.and_eq_false_iff, decide_eq_true_eq, decide_eq_false_iff_not, and_imp, forall_apply_eq_imp_iff]
    simp only [window]
    constructor
    · intro all v lowV w lowW
      by_cases defined : v < byteAt p 1 + 1 ∧ w < byteAt p 1 + 1
      · have apart := all ⟨v, lowV⟩ defined.1 ⟨w, lowW⟩ defined.2
        simp only [Fin.mk.injEq] at apart
        omega
      · omega
    · intro all v definedV w definedW
      rw [Fin.ext_iff]
      have before := all v.val v.isLt w.val w.isLt
      have after := all w.val w.isLt v.val v.isLt
      omega

/-! ## The records -/

theorem isSome_input (p : List Byte) : (inputOf p).isSome = fieldsInRange (.putInput p) := by
  have allowed {i : InputId} {f : InputFunction} (hi : idOf 48 (byteAt p 0) = some i)
      (hf : InputFunction.ofCode (byteAt p 1) = some f) :
      functionAllowed i f = (decide (byteAt p 1 = 0) || decide (41 ≤ byteAt p 0)) := by
    rw [idOf_val hi, function_val hf]
    cases f <;> simp [functionAllowed, InputFunction.code]
  refine (isSome_bind (isSome_idOf _ _) fun i hi => isSome_bind (isSome_function _) fun f hf => isSome_bind (isSome_kind _) fun _ _ =>
    isSome_bind (isSome_sense _) fun _ _ => isSome_bind (isSome_noise _) fun _ _ => isSome_bind (isSome_boolOf _) fun _ _ =>
    isSome_bind (isSome_boolOf _) fun _ _ => isSome_bind (isSome_boolOf _) fun _ _ => isSome_bind (isSome_boolOf _) fun _ _ =>
    isSome_bind (isSome_within _ _ _) fun _ _ => (isSome_ite _).trans (Bool.decide_eq_true.trans (allowed hi hf))).trans ?_
  simp only [fieldsInRange, Bool.and_assoc]

theorem isSome_ladder (p : List Byte) : (ladderOf p).isSome = fieldsInRange (.putLadder p) := by
  have windows {count : Nat} (h : within 1 6 (byteAt p 1) = some count) :
      (windowsInRange (windowsAt p) && windowsApart count (windowsAt p)) = windowFieldsInRange p := by
    rw [← windowFields_eq, ← (within_eq_some.1 h).1]
  refine (isSome_bind (isSome_idOf _ _) fun _ _ => isSome_bind (isSome_within _ _ _) fun _ hc => isSome_bind (isSome_within _ _ _) fun _ _ =>
    isSome_bind (isSome_idOf _ _) fun _ _ => isSome_bind (isSome_within _ _ _) fun _ _ => isSome_bind (isSome_boolOf _) fun _ _ =>
    (isSome_ite _).trans (Bool.decide_eq_true.trans (windows hc))).trans ?_
  simp only [fieldsInRange]
  ac_rfl

theorem isSome_indicators (p : List Byte) : (indicatorsAt p).isSome =
    (List.range 8).all fun b => indicatorInRange (byteAt p (6 + 2 * b)) (byteAt p (7 + 2 * b)) := by
  refine (isSome_bind (isSome_indicator _ _) fun _ _ => isSome_bind (isSome_indicator _ _) fun _ _ =>
    isSome_bind (isSome_indicator _ _) fun _ _ => isSome_bind (isSome_indicator _ _) fun _ _ =>
    isSome_bind (isSome_indicator _ _) fun _ _ => isSome_bind (isSome_indicator _ _) fun _ _ =>
    isSome_bind (isSome_indicator _ _) fun _ _ => isSome_bind (c := true) (isSome_indicator _ _) fun _ _ => rfl).trans ?_
  rfl

theorem isSome_station (p : List Byte) : (stationOf p).isSome = fieldsInRange (.putStation p) := by
  refine (isSome_bind (isSome_idOf _ _) fun _ _ => isSome_bind (isSome_boolOf _) fun _ _ => isSome_bind (isSome_within _ _ _) fun _ _ =>
    isSome_bind (isSome_idOf _ _) fun _ _ => isSome_bind (isSome_within _ _ _) fun _ _ => isSome_bind (isSome_boolOf _) fun _ _ =>
    isSome_bind (c := true) (isSome_indicators _) fun _ _ => rfl).trans ?_
  simp only [fieldsInRange, Bool.and_assoc, Bool.and_true]

theorem isSome_binding (p : List Byte) (full : p.length ≠ 2) : (bindingOf p).isSome = fieldsInRange (.putBinding p) := by
  refine (isSome_bind (isSome_idOf _ _) fun _ _ => isSome_bind (isSome_source _ _ _) fun _ _ => isSome_bind (isSome_trigger _) fun _ _ =>
    isSome_bind (isSome_bindingClass _) fun _ _ => isSome_bind (isSome_idOf _ _) fun _ _ => isSome_bind (isSome_action _ _ _ _) fun _ _ =>
    isSome_bind (c := true) (isSome_boolOf _) fun _ _ => rfl).trans ?_
  simp only [fieldsInRange, Bool.and_true, decide_eq_false full, Bool.false_or]
  ac_rfl

theorem isSome_scene (p : List Byte) (size : p.length = 19 + 3 * sceneCount p) :
    (sceneOf p).isSome = fieldsInRange (.putScene p) := by
  have entries : (entriesOf (p.drop 19)).isSome = (List.range (sceneCount p)).all fun j =>
      lies 1 128 (byteAt p (19 + 3 * j)) && lies 0 1000 (wordAt p (20 + 3 * j)) := by
    rw [isSome_entries (p.drop 19) (sceneCount p) (by rw [List.length_drop]; omega)]
    simp only [byteAt_drop, wordAt_drop, show ∀ j, 19 + (3 * j + 1) = 20 + 3 * j from fun j => by omega]
  refine (isSome_bind (isSome_idOf _ _) fun _ _ => isSome_bind (isSome_name (by omega)) fun _ _ =>
    isSome_bind (isSome_within _ _ _) fun _ _ => isSome_bind (isSome_within _ _ _) fun _ _ =>
    isSome_bind (isSome_within _ _ _) fun _ _ => isSome_bind (c := true) entries fun _ _ => rfl).trans ?_
  simp only [fieldsInRange, Bool.and_assoc, Bool.and_true, sceneCount]

theorem isSome_circuit (p : List Byte) : (circuitOf p).isSome = fieldsInRange (.putCircuit p) := by
  refine (isSome_bind (isSome_idOf _ _) fun _ _ => isSome_bind (isSome_law _) fun _ _ => isSome_bind (isSome_within _ _ _) fun _ _ =>
    isSome_bind (isSome_within _ _ _) fun _ _ => isSome_bind (isSome_within _ _ _) fun _ _ => isSome_bind (isSome_within _ _ _) fun _ _ =>
    isSome_bind (isSome_within _ _ _) fun _ _ => isSome_bind (isSome_within _ _ _) fun _ _ => isSome_bind (isSome_within _ _ _) fun _ _ =>
    isSome_bind (c := true) (isSome_boolOf _) fun _ _ => rfl).trans ?_
  simp only [fieldsInRange, Bool.and_assoc, Bool.and_true]

theorem isSome_zone (p : List Byte) (size : p.length = 20) : (zoneOf p).isSome = fieldsInRange (.putZone p) := by
  refine (isSome_bind (isSome_idOf _ _) fun _ _ => isSome_bind (isSome_mask _) fun _ _ => isSome_bind (isSome_mode _) fun _ _ =>
    isSome_bind (isSome_delay _) fun _ _ => isSome_bind (isSome_within _ _ _) fun _ _ =>
    isSome_bind (c := true) (isSome_name (by omega)) fun _ _ => rfl).trans ?_
  simp only [fieldsInRange, Bool.and_assoc, Bool.and_true]

theorem isSome_annunciator (p : List Byte) : (annunciatorOf p).isSome = fieldsInRange (.putAnnunciator p) := by
  refine (isSome_bind (isSome_idOf _ _) fun _ _ => isSome_bind (c := true) (isSome_functionOf _ _) fun _ _ => rfl).trans ?_
  simp only [fieldsInRange, Bool.and_assoc, Bool.and_true]

theorem isSome_general (p : List Byte) : (generalOf p).isSome = fieldsInRange (.putGeneral p) := by
  refine (isSome_bind (isSome_nominal _) fun _ _ => isSome_bind (c := true) (isSome_reportMask _) fun _ _ => rfl).trans ?_
  simp only [fieldsInRange, Bool.and_true]

end Sys2Proof.Machine

/-! PROOFS. The checks that turn a request away, in their order (R177, R178, R193). -/

namespace Sys2Proof.Machine

/-! ## The order of the checks -/

/-- The status of a request that is carried out: DONE, STILL_HELD of a RELEASE, or FULL of a LEVEL (R177). -/
def Answered (k : Byte) (a : Answer) : Prop :=
  a.status = .done ∨ (a.status = .stillHeld ∧ k = 0x12) ∨ (a.status = .full ∧ k = 0x1A)

/-- An answer that follows the checks behind those of the fields. -/
structure Checked (c : Instr) (k : Byte) (s : State) (a : Answer) : Prop where
  duplicate : NamesTwice c → a = refuse .duplicate s
  denied : ¬NamesTwice c → IsDenied c s → a = refuse .denied s
  full : ¬NamesTwice c → ¬IsDenied c s → HasNoRoom c s → a = refuse .full s
  answered : ¬NamesTwice c → ¬IsDenied c s → ¬HasNoRoom c s → Answered k a

/-- An answer that follows the checks from those of the fields on. -/
structure CheckedFields (c : Instr) (k : Byte) (s : State) (a : Answer) : Prop where
  range : fieldsInRange c = false → a = refuse .range s
  inRange : fieldsInRange c = true → Checked c k s a

/-- An answer that follows the checks of R177 in their order. -/
structure InOrder (c : Instr) (k : Byte) (s : State) (a : Answer) : Prop where
  length : lengthRight c = false → a = refuse .length s
  busy : lengthRight c = true → s.saving = true → k ∈ busyKinds → a = refuse .busy s
  fields : lengthRight c = true → (s.saving = true → k ∉ busyKinds) → CheckedFields c k s a

section
variable {c : Instr} {k : Byte} {p : List Byte} {s : State} {a : Answer} {wrong : Prop} [Decidable wrong]

/-- A request whose length is checked and that is never BUSY. -/
theorem InOrder.of_length (right : lengthRight c = !decide wrong) (free : k ∉ busyKinds)
    (fields : ¬wrong → CheckedFields c k s a) : InOrder c k s (if wrong then refuse .length s else a) := by
  by_cases h : wrong
  · rw [if_pos h]
    have no : lengthRight c ≠ true := by simp [right, h]
    exact ⟨fun _ => rfl, fun yes => absurd yes no, fun yes => absurd yes no⟩
  · rw [if_neg h]
    exact ⟨fun no => by simp [right, h] at no, fun _ _ busy => absurd busy free, fun _ _ => fields h⟩

/-- A request whose length is checked, then whether a save is under way. -/
theorem InOrder.of_busy (right : lengthRight c = !decide wrong) (busy : k ∈ busyKinds)
    (fields : ¬wrong → CheckedFields c k s a) :
    InOrder c k s (if wrong then refuse .length s else if s.saving then refuse .busy s else a) := by
  by_cases h : wrong
  · rw [if_pos h]
    have no : lengthRight c ≠ true := by simp [right, h]
    exact ⟨fun _ => rfl, fun yes => absurd yes no, fun yes => absurd yes no⟩
  · rw [if_neg h]
    refine ⟨fun no => by simp [right, h] at no, fun _ saving _ => if_pos saving, fun _ calm => ?_⟩
    rw [if_neg fun saving => calm saving busy]
    exact fields h

/-- The requests for which no check stands behind those of the fields. -/
def unguarded : Instr → Bool
  | .recallRequest _ | .drop _ | .levelRequest _ | .clear _ | .putInput _ | .putBinding _ | .putScene _ => false
  | _ => true

theorem not_namesTwice (free : ∀ p, c ≠ .putScene p) : ¬NamesTwice c := fun ⟨p, _, _, h, _⟩ => free p h

theorem not_hasNoRoom (free : ∀ p, c ≠ .putScene p) : ¬HasNoRoom c s := fun ⟨p, _, h, _⟩ => free p h

theorem not_isDenied (plain : unguarded c = true) : ¬IsDenied c s := by
  rintro (⟨p, h | h | h | h, -⟩ | ⟨p, i, b, x, h, -⟩ | ⟨p, h, -⟩) <;> subst h <;> cases plain

theorem Checked.plain (plain : unguarded c = true) (answered : Answered k a) : Checked c k s a where
  duplicate h := absurd h (not_namesTwice fun p e => by subst e; cases plain)
  denied _ h := absurd h (not_isDenied plain)
  full _ _ h := absurd h (not_hasNoRoom fun p e => by subst e; cases plain)
  answered _ _ _ := answered

/-- A request without a field that is checked. -/
theorem CheckedFields.none (all : fieldsInRange c = true) (checked : Checked c k s a) : CheckedFields c k s a :=
  ⟨fun no => absurd (all.symm.trans no) (by decide), fun _ => checked⟩

/-- A request whose record is read whole or not at all. -/
theorem CheckedFields.of_read {α : Type} {x : Option α} (fields : x.isSome = fieldsInRange c)
    (none : x = .none → a = refuse .range s) (some : ∀ r, x = .some r → Checked c k s a) : CheckedFields c k s a where
  range no := none (by rw [no] at fields; simpa using fields)
  inRange yes := by
    rw [yes] at fields
    obtain ⟨r, read⟩ := Option.isSome_iff_exists.1 fields
    exact some r read

/-- A request without a field that is checked. -/
theorem InOrder.bare {m : Nat} (right : lengthRight c = decide (p.length = m)) (free : k ∉ busyKinds)
    (all : fieldsInRange c = true) (plain : unguarded c = true) (answered : Answered k a) :
    InOrder c k s (if p.length ≠ m then refuse .length s else a) :=
  .of_length (right.trans (by simp)) free fun _ => .none all (.plain plain answered)

theorem InOrder.bare_busy {m : Nat} (right : lengthRight c = decide (p.length = m)) (busy : k ∈ busyKinds)
    (all : fieldsInRange c = true) (plain : unguarded c = true) (answered : Answered k a) :
    InOrder c k s (if p.length ≠ m then refuse .length s else if s.saving then refuse .busy s else a) :=
  .of_busy (right.trans (by simp)) busy fun _ => .none all (.plain plain answered)

/-- A request of which two fields are read. -/
theorem CheckedFields.of_two {α β : Type} {x : Option α} {y : Option β} (fields : fieldsInRange c = (x.isSome && y.isSome))
    (none : x = .none ∨ y = .none → a = refuse .range s) (some : ∀ i j, x = .some i → y = .some j → Checked c k s a) :
    CheckedFields c k s a where
  range no := none (by
    rw [no, eq_comm, Bool.and_eq_false_iff] at fields
    simpa using fields)
  inRange yes := by
    rw [yes, eq_comm, Bool.and_eq_true, Option.isSome_iff_exists, Option.isSome_iff_exists] at fields
    obtain ⟨⟨i, hi⟩, j, hj⟩ := fields
    exact some i j hi hj

/-- A request that names one thing, and nothing else that is checked. -/
theorem InOrder.by_number {n m v : Nat} (right : lengthRight c = decide (p.length = m)) (free : k ∉ busyKinds)
    (fields : fieldsInRange c = lies 1 n v) (plain : unguarded c = true) (none : idOf n v = .none → a = refuse .range s)
    (some : ∀ i, idOf n v = .some i → Answered k a) : InOrder c k s (if p.length ≠ m then refuse .length s else a) :=
  .of_length (right.trans (by simp)) free fun _ =>
    .of_read ((isSome_idOf n v).trans fields.symm) none fun i h => .plain plain (some i h)

/-- A request that names one thing and a class, which the host may name or may not (R110). -/
theorem InOrder.by_class {n m : Nat} (right : lengthRight c = decide (p.length = m))
    (free : k ∉ busyKinds) (fields : fieldsInRange c = (lies 1 n (byteAt p 0) && lies 0 3 (byteAt p 1)))
    (kind : c = .recallRequest p ∨ c = .drop p ∨ c = .levelRequest p ∨ c = .clear p)
    (none : idOf n (byteAt p 0) = .none ∨ ClaimClass.ofCode (byteAt p 1) = .none → a = refuse .range s)
    (some : ∀ i cls, idOf n (byteAt p 0) = .some i → ClaimClass.ofCode (byteAt p 1) = .some cls →
      (cls.ofHost = true → Answered k a) ∧ (cls.ofHost = false → a = refuse .denied s)) :
    InOrder c k s (if p.length ≠ m then refuse .length s else a) := by
  have scene : ∀ q, c ≠ .putScene q := fun q e => by subst e; simp at kind
  have denied : IsDenied c s ↔ byteAt p 1 = 1 ∨ byteAt p 1 = 3 := by
    refine ⟨?_, fun h => .inl ⟨p, kind, h⟩⟩
    rintro (⟨q, h, named⟩ | ⟨q, i, b, x, h, -⟩ | ⟨q, h, -⟩)
    · rcases kind with rfl | rfl | rfl | rfl <;> simp at h <;> subst h <;> exact named
    · subst h; simp at kind
    · subst h; simp at kind
  refine .of_length (right.trans (by simp)) free fun _ =>
    .of_two (by rw [fields, isSome_idOf, isSome_class]) none fun i cls hi hc => ?_
  obtain ⟨answered, refused⟩ := some i cls hi hc
  have hostile : cls.ofHost = false ↔ IsDenied c s := by
    rw [denied, class_val hc]
    cases cls <;> decide
  refine ⟨fun h => absurd h (not_namesTwice scene), fun _ h => refused (hostile.2 h),
    fun _ _ h => absurd h (not_hasNoRoom scene), fun _ allowed _ => answered ?_⟩
  rw [← Bool.not_eq_false, hostile]
  exact allowed

/-- A write of which no check but those of the fields turns one away. -/
theorem InOrder.by_record {α : Type} {m : Nat} {x : Option α} (right : lengthRight c = decide (p.length = m))
    (busy : k ∈ busyKinds) (fields : p.length = m → x.isSome = fieldsInRange c) (plain : unguarded c = true)
    (none : x = .none → a = refuse .range s) (some : ∀ r, x = .some r → Answered k a) :
    InOrder c k s (if p.length ≠ m then refuse .length s else if s.saving then refuse .busy s else a) :=
  .of_busy (right.trans (by simp)) busy fun size => .of_read (fields (not_not.1 size)) none fun r h => .plain plain (some r h)

end

/-! ## What the writes check behind their fields -/

section
variable {p : List Byte} {s : State}

/-- The fields of a PUT_INPUT that its denial is read from. -/
theorem inputOf_fields {i : InputId} {cs : InputSettings} (read : inputOf p = some (i, cs)) :
    byteAt p 0 = i.val + 1 ∧ byteAt p 1 = cs.function.code ∧ byteAt p 7 = cs.egressCapable.toNat := by
  simp only [inputOf, Option.bind_eq_bind, Option.bind_eq_some_iff] at read
  obtain ⟨i', number, function, code, _, _, _, _, _, _, _, _, _, _, capable, on, _, _, _, _, stored⟩ := read
  split at stored
  · cases stored
    exact ⟨idOf_val number, function_val code, boolOf_val on⟩
  · cases stored

/-- A write of an input that an EGRESS binding has as its source (R1; notes/assumptions/11.md). -/
theorem isDenied_putInput {i : InputId} {cs : InputSettings} (read : inputOf p = some (i, cs)) :
    IsDenied (.putInput p) s ↔ inputDenied i cs s = true := by
  obtain ⟨number, function, capable⟩ := inputOf_fields read
  have takes : byteAt p 7 = 0 ∨ byteAt p 1 = 1 ↔ (!cs.egressCapable || decide (cs.function = .ladder)) = true := by
    rw [capable, function]
    cases cs.egressCapable <;> cases cs.function <;> decide
  have sources : sourcesEgress i s = true ↔
      ∃ b x, s.settings.bindings.get b = some x ∧ x.cls = .egress ∧ x.source = .contact i := by
    unfold sourcesEgress
    rw [Table.any_items]
    refine exists_congr fun b => ?_
    cases s.settings.bindings.get b <;> simp
  rw [inputDenied, Bool.and_eq_true, sources, ← takes]
  constructor
  · rintro (⟨q, h, -⟩ | ⟨q, j, b, x, h, at_, bound, egress, source, taken⟩ | ⟨q, h, -⟩)
    · simp at h
    · cases h
      cases show j = i from Fin.ext (by omega)
      exact ⟨⟨b, x, bound, egress, source⟩, taken⟩
    · cases h
  · rintro ⟨⟨b, x, bound, egress, source⟩, taken⟩
    exact .inr (.inl ⟨p, i, b, x, rfl, number, bound, egress, source, taken⟩)

/-- The fields of a PUT_BINDING that its denial is read from. -/
theorem bindingOf_fields {b : SlotId} {x : Binding} (read : bindingOf p = some (b, x)) :
    sourceOf (byteAt p 2) (byteAt p 3) (byteAt p 4) = some x.source ∧ byteAt p 7 = x.cls.code := by
  simp only [bindingOf, Option.bind_eq_bind, Option.bind_eq_some_iff] at read
  obtain ⟨_, _, source, found, _, _, cls, code, _, _, _, _, _, _, stored⟩ := read
  cases stored
  exact ⟨found, bindingClass_val code⟩

/-- The input that a source field names, where it names one. -/
theorem sourceOf_contact_iff {kind unit button : Nat} {src : Source} (read : sourceOf kind unit button = some src) (i : InputId) :
    src = .contact i ↔ kind = 1 ∧ unit = i.val + 1 := by
  match kind with
  | 1 =>
    change (if button = 0 then (idOf 48 unit).map Source.contact else none) = some src at read
    split at read
    · obtain ⟨j, number, rfl⟩ := Option.map_eq_some_iff.1 read
      rw [Source.contact.injEq, Fin.ext_iff, idOf_val number]
      omega
    · cases read
  | 2 =>
    obtain ⟨_, _, read⟩ := Option.bind_eq_some_iff.1 read
    obtain ⟨_, _, rfl⟩ := Option.map_eq_some_iff.1 read
    simp
  | 3 =>
    obtain ⟨_, _, read⟩ := Option.bind_eq_some_iff.1 read
    obtain ⟨_, _, rfl⟩ := Option.map_eq_some_iff.1 read
    simp
  | 0 | n + 4 => cases read

/-- An EGRESS binding on a source that is no egress-capable contact input of function CONTACT (R59). -/
theorem isDenied_putBinding {b : SlotId} {x : Binding} (read : bindingOf p = some (b, x)) (size : p.length = 15) :
    IsDenied (.putBinding p) s ↔ x.cls = .egress ∧ egressAllowed x.source s = false := by
  obtain ⟨source, cls⟩ := bindingOf_fields read
  have egress : byteAt p 7 = 3 ↔ x.cls = .egress := by rw [cls]; cases x.cls <;> decide
  have refused : (∀ i : InputId, byteAt p 2 = 1 → byteAt p 3 = i.val + 1 → (s.settings.inputs.get i).egressCapable = false ∨
      (s.settings.inputs.get i).function = .ladder) ↔ egressAllowed x.source s = false := by
    simp only [← and_imp, ← sourceOf_contact_iff source]
    unfold egressAllowed
    cases x.source with
    | contact i =>
      simp only [Source.contact.injEq, forall_eq', Bool.and_eq_false_iff, decide_eq_false_iff_not]
      refine or_congr_right ?_
      cases (s.settings.inputs.get i).function <;> simp
    | ladder ch b => simp
    | station a b => simp
  rw [← egress, ← refused]
  constructor
  · rintro (⟨q, h, -⟩ | ⟨q, j, b, x, h, -⟩ | ⟨q, h, -, named, not⟩)
    · simp at h
    · cases h
    · cases h
      exact ⟨named, not⟩
  · rintro ⟨named, not⟩
    exact .inr (.inr ⟨p, rfl, size, named, not⟩)

/-- The fields of a PUT_SCENE that its last two checks are read from. -/
theorem sceneOf_fields {sc : SceneId} {c : Scene} (read : sceneOf p = some (sc, c)) (size : p.length = 19 + 3 * sceneCount p) :
    byteAt p 0 = sc.val + 1 ∧ c.entries.length = byteAt p 18 ∧
      ∀ j, ∀ h : j < c.entries.length, byteAt p (19 + 3 * j) = (c.entries[j]).circuit.val + 1 := by
  simp only [sceneOf, Option.bind_eq_bind, Option.bind_eq_some_iff] at read
  obtain ⟨_, number, _, _, _, _, _, _, _, _, entries, found, stored⟩ := read
  cases stored
  obtain ⟨count, circuits⟩ := entriesOf_circuits (n := sceneCount p) (by rw [List.length_drop]; omega) found
  refine ⟨idOf_val number, count, fun j h => ?_⟩
  rw [← byteAt_drop]
  exact circuits j h

/-- A scene names a circuit twice where two of its triples do (R83). -/
theorem namesTwice_putScene {sc : SceneId} {c : Scene} (read : sceneOf p = some (sc, c))
    (size : p.length = 19 + 3 * sceneCount p) : NamesTwice (.putScene p) ↔ repeatsCircuit c.entries = true := by
  obtain ⟨-, count, circuits⟩ := sceneOf_fields read size
  have same {i j : Nat} (hi : i < c.entries.length) (hj : j < c.entries.length) :
      (c.entries[i]).circuit = (c.entries[j]).circuit ↔ byteAt p (19 + 3 * i) = byteAt p (19 + 3 * j) := by
    rw [circuits i hi, circuits j hj, Fin.ext_iff]
    omega
  rw [repeatsCircuit, Bool.not_eq_true', decide_eq_false_iff_not, List.Nodup, List.pairwise_map, List.pairwise_iff_getElem]
  push Not
  constructor
  · rintro ⟨q, i, j, h, before, inside, twice⟩
    cases h
    rw [← count] at inside
    exact ⟨i, j, by omega, inside, before, (same _ inside).2 twice⟩
  · rintro ⟨i, j, hi, hj, before, twice⟩
    exact ⟨p, i, j, rfl, before, count ▸ hj, (same hi hj).1 twice⟩

/-- A scene without room in the pool, its own entries counted as free (R84). -/
theorem hasNoRoom_putScene {sc : SceneId} {c : Scene} (read : sceneOf p = some (sc, c))
    (size : p.length = 19 + 3 * sceneCount p) : HasNoRoom (.putScene p) s ↔ hasRoom sc c.entries.length s = false := by
  obtain ⟨number, count, -⟩ := sceneOf_fields read size
  have pool : s.settings.entryCount = poolUsed s := rfl
  rw [hasRoom, decide_eq_false_iff_not, Nat.not_le, count, poolSize]
  constructor
  · rintro ⟨q, other, h, at_, full⟩
    cases h
    cases show other = sc from Fin.ext (by omega)
    rw [← pool]
    exact full
  · intro full
    exact ⟨p, sc, rfl, number, pool ▸ full⟩

end

/-! ## The writes with checks of their own -/

section
variable {p : List Byte} {s : State}

theorem Answered.of_done {k : Byte} {results : List Byte} : Answered k (done results s) := .inl rfl

theorem putInput_inOrder : InOrder (.putInput p) 0x30 s (carryPutInput p s) := by
  refine .of_busy (wrong := p.length ≠ 10) (by simp [lengthRight]) (by decide) fun _ =>
    .of_read (isSome_input p) (fun h => by rw [h]) fun ⟨i, cs⟩ read => ?_
  rw [read]
  dsimp only
  refine ⟨fun h => absurd h (not_namesTwice nofun), fun _ h => if_pos ((isDenied_putInput read).1 h),
    fun _ _ h => absurd h (not_hasNoRoom nofun), fun _ allowed _ => ?_⟩
  rw [if_neg fun h => allowed ((isDenied_putInput read).2 h)]
  exact .of_done

theorem putBinding_inOrder : InOrder (.putBinding p) 0x33 s (carryPutBinding p s) := by
  refine .of_busy (wrong := p.length ≠ 2 ∧ p.length ≠ 15) ?_ (by decide) fun right => ?_
  · show (decide (p.length = 2) || decide (p.length = 15)) = _
    rw [Bool.decide_and, Bool.not_and]
    simp
  · by_cases clears : p.length = 2
    · rw [if_pos clears]
      refine .of_read (x := idOf 512 (wordAt p 0)) ?_ (fun h => by rw [h]) fun b h => ?_
      · rw [isSome_idOf]
        simp [fieldsInRange, clears]
      · rw [h]
        refine ⟨fun h => absurd h (not_namesTwice nofun), fun _ h => ?_, fun _ _ h => absurd h (not_hasNoRoom nofun),
          fun _ _ _ => .of_done⟩
        rcases h with ⟨q, h, -⟩ | ⟨q, i, b, x, h, -⟩ | ⟨q, h, size, -⟩
        · simp at h
        · cases h
        · cases h
          omega
    · rw [if_neg clears]
      have size : p.length = 15 := by omega
      refine .of_read (isSome_binding p clears) (fun h => by rw [h]) fun ⟨b, x⟩ read => ?_
      rw [read]
      dsimp only
      refine ⟨fun h => absurd h (not_namesTwice nofun), fun _ h => if_pos ((isDenied_putBinding read size).1 h),
        fun _ _ h => absurd h (not_hasNoRoom nofun), fun _ allowed _ => ?_⟩
      rw [if_neg fun h => allowed ((isDenied_putBinding read size).2 h)]
      exact .of_done

theorem putScene_inOrder : InOrder (.putScene p) 0x34 s (carryPutScene p s) := by
  refine .of_busy (wrong := p.length < 19 ∨ p.length ≠ 19 + 3 * sceneCount p) ?_ (by decide) fun right => ?_
  · show (decide (19 ≤ p.length) && decide (p.length = 19 + 3 * sceneCount p)) = _
    rw [← Bool.decide_and, ← decide_not]
    exact decide_eq_decide.2 (by omega)
  · have size : p.length = 19 + 3 * sceneCount p := by omega
    refine .of_read (isSome_scene p size) (fun h => by rw [h]) fun ⟨sc, c⟩ read => ?_
    have allowed : ¬IsDenied (.putScene p) s := by
      rintro (⟨q, h, -⟩ | ⟨q, i, b, x, h, -⟩ | ⟨q, h, -⟩)
      · simp at h
      · cases h
      · cases h
    rw [read]
    dsimp only
    refine ⟨fun h => if_pos ((namesTwice_putScene read size).1 h), fun _ h => absurd h allowed, fun once _ h => ?_,
      fun once _ room => ?_⟩
    · rw [if_neg fun h => once ((namesTwice_putScene read size).2 h), (hasNoRoom_putScene read size).1 h]
      rfl
    · rw [if_neg fun h => once ((namesTwice_putScene read size).2 h), if_pos]
      · exact .of_done
      · rw [← Bool.not_eq_false, ← hasNoRoom_putScene read size]
        exact room

end

/-! ## Every request -/

/-- Every request of section 10.9 is carried out by its own kind, with the checks in their order. -/
theorem exec_inOrder {c : Instr} {k : Byte} {p : List Byte} (h : requestOf c = some (k, p)) :
    ∃ carry, (∀ s, exec c s = request k carry p s) ∧ ∀ s, InOrder c k s (carry p s) := by
  cases c <;> cases h <;> refine ⟨_, fun _ => rfl, fun s => ?_⟩
  case hello | status | cause | setFlags | setAnnunciator | dropRestart | queryInputs | getGeneral =>
    exact .bare rfl (by decide) rfl rfl .of_done
  case save | restart => exact .bare_busy rfl (by decide) rfl rfl .of_done
  case force | queryCircuit | queryScene | queryZone | getInput | getLadder | getStation | getBinding | getScene | getCircuit
      | getZone | getAnnunciator =>
    refine .by_number rfl (by decide) rfl rfl (fun h => ?_) fun i h => ?_ <;> rw [h]
    exact .of_done
  case release =>
    refine .by_number rfl (by decide) rfl rfl (fun h => ?_) fun i h => ?_ <;> rw [h]
    dsimp only [Answered]
    split
    · exact .inr (.inl ⟨rfl, rfl⟩)
    · exact .inl rfl
  case recallRequest | drop | clear =>
    refine .by_class rfl (by decide) rfl (by simp) (fun h => ?_) fun i cls hi hc => ?_
    · rcases h with h | h <;> rw [h]
      cases idOf _ _ <;> rfl
    · rw [hi, hc]
      dsimp only
      exact ⟨fun host => by rw [if_pos host]; exact .of_done, fun host => if_neg (by rw [host]; decide)⟩
  case levelRequest =>
    refine .by_class rfl (by decide) rfl (by simp) (fun h => ?_) fun i cls hi hc => ?_
    · rcases h with h | h <;> rw [h]
      cases idOf _ _ <;> rfl
    · rw [hi, hc]
      dsimp only
      refine ⟨fun host => ?_, fun host => if_neg (by rw [host]; decide)⟩
      rw [if_pos host]
      dsimp only [Answered]
      split
      · exact .inr (.inr ⟨rfl, rfl⟩)
      · exact .inl rfl
  case queryStation =>
    refine .of_length (by simp [lengthRight]) (by decide) fun _ =>
      .of_two (x := idOf 32 (byteAt p 0)) (y := boolOf (byteAt p 1)) ?_ (fun h => ?_) fun i on hi ho => ?_
    · rw [isSome_idOf, isSome_boolOf]; rfl
    · rcases h with h | h <;> rw [h]
      cases idOf _ _ <;> rfl
    · rw [hi, ho]
      exact .plain rfl .of_done
  case putLadder =>
    refine .by_record rfl (by decide) (fun _ => isSome_ladder _) rfl (fun h => ?_) fun i h => ?_ <;> rw [h]
    exact .of_done
  case putStation =>
    refine .by_record rfl (by decide) (fun _ => isSome_station _) rfl (fun h => ?_) fun i h => ?_ <;> rw [h]
    exact .of_done
  case putCircuit =>
    refine .by_record rfl (by decide) (fun _ => isSome_circuit _) rfl (fun h => ?_) fun i h => ?_ <;> rw [h]
    exact .of_done
  case putZone =>
    refine .by_record rfl (by decide) (isSome_zone _) rfl (fun h => ?_) fun i h => ?_ <;> rw [h]
    exact .of_done
  case putAnnunciator =>
    refine .by_record rfl (by decide) (fun _ => isSome_annunciator _) rfl (fun h => ?_) fun i h => ?_ <;> rw [h]
    exact .of_done
  case putGeneral =>
    refine .by_record rfl (by decide) (fun _ => isSome_general _) rfl (fun h => ?_) fun i h => ?_ <;> rw [h]
    exact .of_done
  case putInput => exact putInput_inOrder
  case putBinding => exact putBinding_inOrder
  case putScene => exact putScene_inOrder

/-- The entry at the head of the queue can be taken while the reply slot is empty (R176). -/
theorem takable_head {e : Entry} {s : State} (slot : s.replySlot = none) (waits : s.requests.head? = some e) :
    takable e s = true := by
  obtain ⟨rest, queue⟩ := List.head?_eq_some_iff.1 waits
  simp [takable, slot, queue]

/-- An answer of a request at the head of the queue, as its reply. -/
theorem request_answers {k : Byte} {carry : List Byte → State → Answer} {p : List Byte} {s : State} (headed : RequestHeads k p s)
    {status : Status} (refused : carry p s.taken = refuse status s.taken) :
    request k carry p s = .next (replied k status [] s.taken) := by
  rw [request_headed headed, refused]
  cases status <;> rfl

/-- Settles O40: the checks of each request in their order, and the two entries that are no request. -/
theorem checksTurnRequestsAway : Obligations.ChecksTurnRequestsAway := by
  refine ⟨fun c k p s named headed => ?_, fun s running slot => ⟨fun waits => ?_, fun k p waits unknown => ?_⟩⟩
  · obtain ⟨carry, carried, order⟩ := exec_inOrder named
    have checks := order s.taken
    rw [carried]
    refine ⟨fun wrong => request_answers headed (checks.length wrong),
      fun right saving busy => request_answers headed (checks.busy right saving busy), fun right calm => ?_⟩
    have fields := checks.fields right calm
    refine ⟨fun wrong => request_answers headed (fields.range wrong), fun inside twice =>
      request_answers headed ((fields.inRange inside).duplicate twice), fun inside once denied =>
      request_answers headed ((fields.inRange inside).denied once denied), fun inside once allowed full =>
      request_answers headed ((fields.inRange inside).full once allowed full), fun inside once allowed room => ?_⟩
    have answered := (fields.inRange inside).answered once allowed room
    exact ⟨(carry p s.taken).status, _, (carry p s.taken).state, request_headed headed, answered⟩
  · have now : takable .damaged s = true := takable_head slot waits
    show execDamagedEntry s = _
    unfold execDamagedEntry
    rw [eventIf_of_possible running now, take, dequeue_head _ waits]
    rfl
  · have now : (!knownKind k && takable (.request k p) s) = true := by
      simp [knownKind, unknown, takable_head slot waits]
    show execUnknownKind k p s = _
    unfold execUnknownKind
    rw [eventIf_of_possible running now, take, dequeue_head _ waits]
    rfl

end Sys2Proof.Machine

/-! PROOFS. While a circuit's dwell runs its relay stays as it is: what the blocks, the requests and the bus leave of it (R157 to
R163). -/

namespace Sys2Proof.Machine

/-! ## A relay in its dwell (R157, R158) -/

/-- A relay in its dwell: nothing of it waits for a crossing. -/
structure Relay.Dwells (closed : Bool) (r : Relay) : Prop where
  state : r.state = closed
  running : r.dwellRunning = true
  uncrossed : ∀ b, r.waiting ≠ .atCrossing b

section
variable {closed : Bool} {r : Relay}

/-- A request handed on during the dwell waits for its end, or drops what waited. -/
theorem Relay.Dwells.hand (h : r.Dwells closed) (cs : CircuitSettings) (locked request : Bool) :
    (r.hand cs locked request).Dwells closed := by
  unfold Relay.hand
  split
  · exact ⟨h.state, h.running, by simp⟩
  · split
    · exact ⟨h.state, h.running, by simp⟩
    · next b waits => exact absurd waits (h.uncrossed b)
    · rw [if_pos h.running]
      exact ⟨h.state, h.running, by simp⟩

theorem Relay.Dwells.cross (h : r.Dwells closed) (cs : CircuitSettings) : r.cross cs = r := by
  unfold Relay.cross
  split
  · next b waits => exact absurd waits (h.uncrossed b)
  · rfl
  · rfl

/-- A circuit rewritten with the same minimum dwell is handed OFF at most. -/
theorem Relay.Dwells.rewrite {c : Circuit} (h : c.relay.Dwells closed) {old cs : CircuitSettings} (locked : Bool)
    (same : old.minimumDwell = cs.minimumDwell) : (c.rewrite old cs locked).relay.Dwells closed := by
  have kept : (c.relay.dwelled old cs locked).realigned old cs = c.relay := by
    rw [Relay.dwelled, if_pos same, Relay.realigned, h.cross cs, ite_self]
  rw [Circuit.rewrite_eq, kept]
  dsimp only
  split
  · exact h.hand _ _ _
  · exact h

end

/-! ## The circuit's part of a state -/

/-- A circuit in its dwell: its minimum dwell, the state of its relay, and the bindings that may reach it. -/
structure Dwell where
  circuit : CircuitId
  minimum : Nat
  closed : Bool
  bindings : Table (Option Binding) 512

structure InDwell (d : Dwell) (s : State) : Prop where
  relay : (s.circuits.get d.circuit).relay.Dwells d.closed
  minimum : (s.settings.circuits.get d.circuit).minimumDwell = d.minimum
  bindings : s.settings.bindings = d.bindings

/-- The relay of a circuit, its minimum dwell and the bindings are the same. -/
structure SameRelay (n : CircuitId) (s t : State) : Prop where
  relay : (t.circuits.get n).relay = (s.circuits.get n).relay
  minimum : (t.settings.circuits.get n).minimumDwell = (s.settings.circuits.get n).minimumDwell
  bindings : t.settings.bindings = s.settings.bindings

theorem InDwell.same {d : Dwell} {s t : State} (h : InDwell d s) (k : SameRelay d.circuit s t) : InDwell d t :=
  ⟨k.relay ▸ h.relay, k.minimum.trans h.minimum, k.bindings.trans h.bindings⟩

section
variable {n : CircuitId} {s t u : State}

theorem SameRelay.refl : SameRelay n s s := ⟨rfl, rfl, rfl⟩

theorem SameRelay.trans (h : SameRelay n s t) (k : SameRelay n t u) : SameRelay n s u :=
  ⟨k.relay.trans h.relay, k.minimum.trans h.minimum, k.bindings.trans h.bindings⟩

theorem SameRelay.of_settings (settings : t.settings = s.settings)
    (relay : (t.circuits.get n).relay = (s.circuits.get n).relay) : SameRelay n s t :=
  ⟨relay, by rw [settings], by rw [settings]⟩

theorem SameRelay.of_parts (settings : t.settings = s.settings) (circuits : t.circuits = s.circuits) : SameRelay n s t :=
  .of_settings settings (by rw [circuits])

theorem OnlyZones.sameRelay (h : OnlyZones s t) : SameRelay n s t := .of_parts h.core.settings h.core.circuits

theorem raise_sameRelay (r : Report) (s : State) : SameRelay n s (raise r s) := (raise_frame r s).zones.sameRelay

theorem enterStation_sameRelay (a : StationId) (v : StationState) (s : State) : SameRelay n s (enterStation a v s) := by
  have stored : SameRelay n s (s.setStation a v) := .of_parts rfl rfl
  unfold enterStation
  split
  · exact stored
  · exact stored.trans (raise_sameRelay _ _)

theorem setSilence_sameRelay (timer : SilenceTimer) (s : State) : SameRelay n s (setSilence timer s) := by
  have stored : SameRelay n s { s with silence := timer } := .of_parts rfl rfl
  exact stored.trans (setSilence_frame timer s).sameRelay

/-! ## Claims and actions (R69 to R79, R98 to R103) -/

theorem Circuit.Loses.relay {cs : CircuitSettings} {c d : Circuit} (h : c.Loses cs d) : d.relay = c.relay := by
  rcases h with rfl | ⟨l, fade, -, rfl⟩
  · rfl
  · exact Circuit.retarget_relay _ _ _

theorem place_sameRelay (c : CircuitId) (cl : Claim) (fade : Nat) (s : State) : SameRelay n s (place c cl fade s) := by
  refine .of_settings (place_settings c cl fade s) ?_
  rcases place_circuits c cl fade s with same | ⟨l, -, circuits⟩
  · rw [same]
  · rw [circuits, Table.get_set]
    split
    · next at_ => rw [Circuit.retarget_relay, at_]
    · rfl

theorem placeScene_sameRelay (sc : SceneId) (cls : ClaimClass) (zone : Option ZoneId) (fade : Option Nat) (s : State) :
    SameRelay n s (placeScene sc cls zone fade s) :=
  foldl_frame (R := SameRelay n) (fun _ => .refl) .trans (fun _ _ => place_sameRelay _ _ _ _) _ s

theorem placeMissing_sameRelay (sc : SceneId) (cls : ClaimClass) (zone : ZoneId) (s : State) :
    SameRelay n s (placeMissing sc cls zone s) := by
  refine foldl_frame (R := SameRelay n) (fun _ => .refl) .trans (fun u e => ?_) _ s
  split
  · exact .refl
  · exact place_sameRelay _ _ _ _

theorem withdraw_sameRelay (c : CircuitId) (k : Key) (fade : Nat) (s : State) : SameRelay n s (withdraw c k fade s) := by
  refine .of_settings rfl ?_
  rw [withdraw, State.setCircuit_circuits, Table.get_set]
  split
  · next at_ => rw [(Circuit.withdraw_loses _ _ _ _).relay, at_]
  · rfl

theorem withdrawEverywhere_sameRelay (k : Key) (fade : Nat) (s : State) : SameRelay n s (withdrawEverywhere k fade s) :=
  .of_settings rfl (by rw [withdrawEverywhere_get, (Circuit.withdraw_loses _ _ _ _).relay])

theorem clearZone_sameRelay (z : ZoneId) (fade : Option Nat) (s : State) : SameRelay n s (clearZone z fade s) :=
  .of_settings rfl (by rw [clearZone, changeCircuits_get, (Circuit.clearZone_loses _ _ _ _).relay])

theorem requestRamp_sameRelay (r : Ramp) (s : State) : SameRelay n s (requestRamp r s) := by
  rw [requestRamp_frame]
  exact .of_parts rfl rfl

theorem sameRelay_keptByHost (n : CircuitId) : KeptByHost (SameRelay n) where
  trans := .trans
  same := .of_parts
  place c cl fade s _ := place_sameRelay c cl fade s
  withdraw := withdraw_sameRelay
  withdrawEverywhere := withdrawEverywhere_sameRelay

theorem actSceneOn_sameRelay (x : Binding) (sc : SceneId) (fade : Option Nat) (s : State) :
    SameRelay n s (actSceneOn x sc fade s) := placeScene_sameRelay _ _ _ _ _

/-- No action reaches a relay, which a tick alone hands a request to (R69 to R79, R123). -/
theorem runAction_sameRelay (b : SlotId) (x : Binding) (s : State) : SameRelay n s (runAction b x s) := by
  have flags (v : BitVec 8) : SameRelay n s (changeFlags v s) := (sameRelay_keptByHost n).flags v s
  unfold runAction
  split
  · exact actSceneOn_sameRelay _ _ _ _
  · exact withdrawEverywhere_sameRelay _ _ _
  · unfold actSceneToggle
    split
    · exact withdrawEverywhere_sameRelay _ _ _
    · exact actSceneOn_sameRelay _ _ _ _
  · exact place_sameRelay _ _ _ _
  · exact withdraw_sameRelay _ _ _ _
  · exact (placeMissing_sameRelay _ _ _ _).trans (requestRamp_sameRelay _ _)
  · exact requestRamp_sameRelay _ _
  · exact clearZone_sameRelay _ _ _
  · exact flags _
  · exact flags _
  · exact flags _
  · exact (forceZone_frame _ s).sameRelay
  · exact (releaseZone_frame _ s).sameRelay
  · exact .refl

end

/-! ## Ticks, the mains and the writes of circuits and general settings (R123, R158 to R163) -/

section
variable {d : Dwell} {s : State}

theorem InDwell.link (d : Dwell) : KeptByLink (InDwell d) where
  serve v h := h.same (.of_parts (serve_settings v) (serve_circuits v))
  receive e v h := h.same (.of_parts (receiveEntry_sameParts e v).1 (receiveEntry_sameParts e v).2)
  unqueue _ h := h.same (.of_parts rfl rfl)
  reply _ _ h := h.same (.of_parts rfl rfl)

theorem InDwell.levelTick (h : InDwell d s) : InDwell d (levelTick s) := by
  have settings : (stepRamps s).settings = s.settings := by rw [stepRamps_frame]
  have ramped : InDwell d (stepRamps s) := h.same (.of_settings settings (stepRamps_relay s d.circuit).1)
  refine ⟨?_, ramped.minimum, ramped.bindings⟩
  have stepped : (Machine.levelTick s).circuits.get d.circuit = _ := changeCircuits_get _ _ _
  rw [stepped]
  refine Relay.Dwells.hand ?_ _ _ _
  rw [Circuit.fadeStep_relay]
  exact ramped.relay

theorem InDwell.passTime (h : InDwell d s) : InDwell d (passTime s) :=
  ⟨by rw [passTime_circuit]; exact ⟨h.relay.state, h.relay.running, h.relay.uncrossed⟩, h.minimum, h.bindings⟩

/-- No change of a circuit in its dwell waits for a crossing, so a crossing leaves it alone (R161). -/
theorem InDwell.crossed (h : InDwell d s) : SameRelay d.circuit s (applyCrossings s) :=
  .of_settings rfl (by rw [applyCrossings, changeCircuits_get]; exact h.relay.cross _)

theorem InDwell.changeMains (h : InDwell d s) (m : Mains) : InDwell d (changeMains m s) := by
  rw [changeMains_stages]
  dsimp only
  have stored : InDwell d { s with
      mains := m, circuits := if s.mains.state = .locked ∧ m.state ≠ .locked then (applyCrossings s).circuits
        else s.circuits } := by
    refine h.same (.of_settings rfl ?_)
    dsimp only
    split
    · exact h.crossed.relay
    · rfl
  generalize ({ s with
    mains := m
    circuits := if s.mains.state = .locked ∧ m.state ≠ .locked then (applyCrossings s).circuits else s.circuits } : State) = u
    at stored
  have told : InDwell d (if s.mains.state = m.state then u else raise (.mains m.state m.lastInterval) u) := by
    split
    · exact stored
    · exact stored.same (raise_sameRelay _ _)
  split
  · exact told
  · exact told.same (reevaluateWhere_frame _ _).sameRelay

theorem InDwell.crossMains (h : InDwell d s) (moment : Nat) : InDwell d (crossMains moment s) := by
  have taken (v : State) (h : InDwell d v) : InDwell d (takeCrossing moment v) := by
    unfold takeCrossing
    dsimp only
    refine InDwell.changeMains ?_ _
    split
    · exact h.same h.crossed
    · exact h
  unfold Machine.crossMains
  split
  · exact taken _ (h.changeMains _)
  · exact taken _ h

theorem InDwell.writeCircuit (h : InDwell d s) {c : CircuitId} {cs : CircuitSettings}
    (spared : c = d.circuit → cs.minimumDwell = d.minimum) : InDwell d (writeCircuit c cs s) := by
  by_cases own : c = d.circuit
  · subst own
    have minimum := spared rfl
    refine ⟨?_, ?_, h.bindings⟩
    · simp only [Machine.writeCircuit, State.setCircuit_circuits, Table.get_set_self]
      exact h.relay.rewrite _ (h.minimum.trans minimum.symm)
    · simp only [Machine.writeCircuit, State.setCircuit_settings, State.setSettings_settings, Table.get_set_self]
      exact minimum
  · refine h.same ⟨?_, ?_, rfl⟩
    · simp [Machine.writeCircuit, Table.get_set_ne, own]
    · simp [Machine.writeCircuit, Table.get_set_ne, own]

theorem InDwell.writeGeneral (h : InDwell d s) (g : GeneralSettings) : InDwell d (writeGeneral g s) := by
  have stored : SameRelay d.circuit s { storedGeneral g s with silence := s.silence.timed s.settings.general g } := by
    refine ⟨?_, rfl, rfl⟩
    show ((if Unlocks g s then (applyCrossings s).circuits else s.circuits).get d.circuit).relay = _
    split
    · exact h.crossed.relay
    · rfl
  exact h.same (stored.trans writeGeneral_frame.sameRelay)

/-- The dwell of another circuit ends. -/
theorem InDwell.setCircuit (h : InDwell d s) {c : CircuitId} (other : c ≠ d.circuit) (v : Circuit) :
    InDwell d (s.setCircuit c v) :=
  h.same (.of_settings rfl (by rw [State.setCircuit_circuits, Table.get_set_ne _ _ other]))

end

end Sys2Proof.Machine

/-! PROOFS. While a circuit's dwell runs its relay stays as it is, whatever comes between two bindings of a dispatch but the end of
that dwell and a new minimum dwell (R64, R85, R157, R163). -/

namespace Sys2Proof.Machine

/-! ## The stations and the channels (R18, R38 to R40) -/

section
variable {d : Dwell} {release : Source → State → State} {s : State}

theorem InDwell.faultSample (h : InDwell d s) (ch : ChannelId) (reading : Nat) : InDwell d (faultSample ch reading s) := by
  have stored (v : LadderState) : InDwell d (s.setLadder ch v) := h.same (.of_parts rfl rfl)
  unfold Machine.faultSample
  split
  · exact (stored _).same (ladderMadeKnown_frame _ _ _).sameRelay
  · exact stored _

theorem InDwell.enterFaultBy (h : InDwell d s) (hr : KeptByRelease (InDwell d) release) (ch : ChannelId) :
    InDwell d (enterFaultBy release ch s) := by
  have released := forButton_kept hr.keeps ch (s.ladders.get ch).decode s h
  have stored (v : LadderState) : InDwell d ((forButton ch (s.ladders.get ch).decode release s).setLadder ch v) :=
    released.same (.of_parts rfl rfl)
  exact (stored _).same (ladderMadeKnown_frame _ _ _).sameRelay

/-- A station enters a state, and the zones that concern it are told. -/
theorem InDwell.entered (h : InDwell d s) (a : StationId) (v : StationState) (p : ZoneId → Bool) :
    InDwell d (reevaluateWhere p (enterStation a v s)) :=
  h.same ((enterStation_sameRelay a v s).trans (reevaluateWhere_frame p _).sameRelay)

theorem InDwell.deferredTransitionBy (h : InDwell d s) (hr : KeptByRelease (InDwell d) release) (a : StationId) :
    InDwell d (deferredTransitionBy release a s) := by
  have released : InDwell d (if (s.stations.get a).state = .active then releaseStationBy release a s else s) := by
    split
    · exact (releaseStationBy_kept hr a s h).1
    · exact h
  unfold Machine.deferredTransitionBy restartStationBy
  exact released.entered _ _ _

theorem InDwell.goMissingBy (h : InDwell d s) (hr : KeptByRelease (InDwell d) release) (a : StationId) :
    InDwell d (goMissingBy release a s) :=
  (releaseStationBy_kept hr a s h).1.same ((enterStation_sameRelay _ _ _).trans (reevaluate_frame _ _).sameRelay)

theorem InDwell.failTurnBy (h : InDwell d s) (hr : KeptByRelease (InDwell d) release) (t : Turn) (bad : Bool) :
    InDwell d (failTurnBy release t bad s) := by
  have counted : InDwell d (countFailure t.address bad s) := h.same (.of_parts rfl rfl)
  unfold Machine.failTurnBy
  dsimp only
  refine InDwell.same (s := ite _ _ _) ?_ (.of_parts rfl rfl)
  split
  · exact counted.deferredTransitionBy hr _
  · split
    · exact counted
    · split
      · exact counted.goMissingBy hr _
      · exact counted.same (.of_parts rfl rfl)

theorem InDwell.identTurnBy (h : InDwell d s) (hr : KeptByRelease (InDwell d) release) (t : Turn) (r : Byte) (n : Nat) :
    InDwell d (identTurnBy release t r n s) := by
  unfold Machine.identTurnBy
  dsimp only
  refine InDwell.same (s := ite _ _ _) ?_ (.of_parts rfl rfl)
  split
  · exact h.deferredTransitionBy hr _
  · exact h.same ((enterStation_sameRelay _ _ _).trans (reevaluate_frame _ _).sameRelay)

/-- The ends of a turn, and a channel's fault, with the releases they hand on. -/
theorem InDwell.execIdentReplyBy (h : InDwell d s) (hr : KeptByRelease (InDwell d) release) (r : BusReply) :
    Gives (InDwell d) (execIdentReplyBy release r s) := by
  unfold Machine.execIdentReplyBy
  refine eventIf_gives (InDwell.link d).serve h fun _ _ => ?_
  split
  · exact h.identTurnBy hr _ _ _
  · exact h

theorem InDwell.execBadReplyBy (h : InDwell d s) (hr : KeptByRelease (InDwell d) release) (r : BusReply) :
    Gives (InDwell d) (execBadReplyBy release r s) := by
  unfold Machine.execBadReplyBy
  refine eventIf_gives (InDwell.link d).serve h fun _ _ => ?_
  split
  · exact h.failTurnBy hr _ _
  · exact h

theorem InDwell.execReplyWindowCloseBy (h : InDwell d s) (hr : KeptByRelease (InDwell d) release) :
    Gives (InDwell d) (execReplyWindowCloseBy release s) := by
  unfold Machine.execReplyWindowCloseBy
  refine eventIf_gives (InDwell.link d).serve h fun _ _ => ?_
  split
  · exact h.failTurnBy hr _ _
  · exact h

theorem InDwell.execStationGoesMissingBy (h : InDwell d s) (hr : KeptByRelease (InDwell d) release) (r : Option BusReply) :
    Gives (InDwell d) (execStationGoesMissingBy release r s) := by
  unfold Machine.execStationGoesMissingBy
  refine eventIf_gives (InDwell.link d).serve h fun _ _ => ?_
  split
  · exact h.failTurnBy hr _ _
  · exact h

theorem InDwell.execLadderFaultEntryBy (h : InDwell d s) (hr : KeptByRelease (InDwell d) release) (ch : ChannelId)
    (reading : Nat) : Gives (InDwell d) (execLadderFaultEntryBy release ch reading s) := by
  unfold Machine.execLadderFaultEntryBy
  exact eventIf_gives (InDwell.link d).serve h fun _ _ => h.enterFaultBy hr ch

end

/-! ## The commands that come as they are -/

/-- A command that neither ends the dwell nor gives the circuit another minimum dwell. -/
structure Dwell.Spares (d : Dwell) (c : Instr) : Prop where
  dwellEnd : c ≠ .dwellEnd d.circuit
  putCircuit : ∀ p cs, c = .putCircuit p → circuitOf p = some (d.circuit, cs) → cs.minimumDwell = d.minimum

section
variable {d : Dwell} {s : State}

/-- A request in a configuration write's place, carried out where its checks pass. -/
theorem InDwell.request (h : InDwell d s) {k : Byte} {carry : List Byte → State → Answer} {p : List Byte}
    (each : ∀ v, InDwell d v → InDwell d (carry p v).state) : Gives (InDwell d) (request k carry p s) :=
  request_gives (InDwell.link d) h each

theorem takeCharacter_sameRelay {n : CircuitId} (c : Byte) (e : Bool) (s : State) : SameRelay n s (takeCharacter c e s) := by
  have framed (f : Framer) : SameRelay n s { s with framer := f } := .of_parts rfl rfl
  unfold takeCharacter
  split
  · exact framed _
  · unfold goodCharacter
    split
    · split
      · exact framed _
      · exact .refl
    · split <;> exact framed _
    · split
      · exact framed _
      · exact (framed _).trans (.of_parts (receiveEntry_sameParts _ _).1 (receiveEntry_sameParts _ _).2)

/-- A command that comes between two bindings just as it is leaves the relay in its dwell, where it spares it. -/
theorem InDwell.comesAsItself (h : InDwell d s) {c : Instr} (comes : Machine.comesAsItself c = true) (spared : d.Spares c) :
    Gives (InDwell d) (exec c s) := by
  have serve := (InDwell.link d).serve
  have host {k : Byte} {p : List Byte} (named : requestOf c = some (k, p)) (no_write : k.toNat < 0x30 ∨ 0x40 ≤ k.toNat) :
      Gives (InDwell d) (exec c s) := fun t given => h.same ((sameRelay_keptByHost d.circuit).exec named no_write
        (by rintro p rfl; cases comes) s t given)
  cases c with
  | putScene p =>
    refine h.request fun v h => ?_
    unfold carryPutScene; split
    · exact h
    · split
      · exact h
      · split
        · exact h
        · split
          · exact h
          · split
            · exact h.same ⟨rfl, rfl, rfl⟩
            · exact h
  | putCircuit p =>
    refine h.request fun v h => ?_
    unfold carryPutCircuit; split
    · exact h
    · split
      · exact h
      · split
        · exact h
        · next c cs named => exact h.writeCircuit fun own => spared.putCircuit p cs rfl (own ▸ named)
  | putZone p =>
    refine h.request fun v h => ?_
    unfold carryPutZone; split
    · exact h
    · split
      · exact h
      · split
        · exact h
        · next z zs _ =>
          have stored : InDwell d (v.setSettings { v.settings with zones := v.settings.zones.set z zs }) :=
            h.same ⟨rfl, rfl, rfl⟩
          exact stored.same (reevaluate_frame z _).sameRelay
  | putAnnunciator p =>
    refine h.request fun v h => ?_
    unfold carryPutAnnunciator; split
    · exact h
    · split
      · exact h
      · split
        · exact h
        · exact h.same ⟨rfl, rfl, rfl⟩
  | putGeneral p =>
    refine h.request fun v h => ?_
    unfold carryPutGeneral; split
    · exact h
    · split
      · exact h
      · split
        · exact h
        · exact h.writeGeneral _
  | replyWindowOpen =>
    show Gives (InDwell d) (execReplyWindowOpen s)
    unfold execReplyWindowOpen
    exact eventIf_gives serve h fun _ _ => h.same (.of_parts rfl rfl)
  | flash3OverrideEnd a b =>
    show Gives (InDwell d) (execFlash3OverrideEnd a b s)
    unfold execFlash3OverrideEnd
    exact eventIf_gives serve h fun _ _ => h.same (.of_parts rfl rfl)
  | ladderRecovery ch r => exact eventIf_gives serve h fun _ _ => h.faultSample ch r
  | dwellEnd c =>
    show Gives (InDwell d) (execDwellEnd c s)
    unfold execDwellEnd
    exact eventIf_gives serve h fun _ _ => h.setCircuit (fun own => spared.dwellEnd (own ▸ rfl)) _
  | zeroCrossing m => exact event_gives serve h fun _ => h.crossMains m
  | mainsLock m => exact eventIf_gives serve h fun _ _ => h.crossMains m
  | mainsSilenceExpiry =>
    show Gives (InDwell d) (execMainsSilenceExpiry s)
    unfold execMainsSilenceExpiry
    exact eventIf_gives serve h fun _ _ => h.changeMains _
  | releaseTimerExpiry z =>
    show Gives (InDwell d) (execReleaseTimerExpiry z s)
    unfold execReleaseTimerExpiry
    exact eventIf_gives serve h fun _ _ => h.same (enterZone_frame z .free s).sameRelay
  | characterReceived c e => exact event_gives serve h fun _ => h.same (takeCharacter_sameRelay c e s)
  | gapTimerExpiry =>
    show Gives (InDwell d) (execGapTimerExpiry s)
    unfold execGapTimerExpiry
    exact eventIf_gives serve h fun _ _ => h.same (.of_parts rfl rfl)
  | silenceTimerExpiry =>
    show Gives (InDwell d) (execSilenceTimerExpiry s)
    unfold execSilenceTimerExpiry
    exact eventIf_gives serve h fun _ _ => h.same (setSilence_sameRelay _ s)
  | transmitFrameEnd =>
    show Gives (InDwell d) (execTransmitFrameEnd s)
    unfold execTransmitFrameEnd
    exact eventIf_gives serve h fun _ _ => h.same (.of_parts rfl rfl)
  | damagedEntry =>
    show Gives (InDwell d) (execDamagedEntry s)
    unfold execDamagedEntry
    exact take_gives (InDwell.link d) h fun _ h => h
  | unknownKind k p =>
    show Gives (InDwell d) (execUnknownKind k p s)
    unfold execUnknownKind
    exact take_gives (InDwell.link d) h fun _ h => h
  | saveEnd v =>
    refine eventIf_gives serve h fun _ _ => ?_
    have stored : SameRelay d.circuit s
      { s with saving := false, image := if v then some s.settings else none } := .of_parts rfl rfl
    exact h.same (stored.trans (raise_sameRelay _ _))
  | hello | status | cause | save | setFlags | force | release | setAnnunciator | recallRequest | drop | levelRequest | clear
  | dropRestart | queryCircuit | queryScene | queryZone | queryStation | queryInputs | getInput | getLadder | getStation
  | getBinding | getScene | getCircuit | getZone | getAnnunciator | getGeneral => exact host rfl (by decide)
  | _ => cases comes

/-! ## Between two bindings (R64) -/

/-- A command that comes between two bindings leaves the relay in its dwell, where it spares it. -/
theorem InDwell.execBetween (h : InDwell d s) (src : Source) {c : Instr} (spared : d.Spares c) :
    Gives (InDwell d) (execBetween src c s) := by
  have serve := (InDwell.link d).serve
  have free (itself : Machine.comesAsItself c = true) : Gives (InDwell d) (exec c s) := h.comesAsItself itself spared
  have held : KeptByRelease (InDwell d) releaseNothing := .nothing
  have given {p : State → Bool} {f : State → Host.Outcome State Fault Refusal} (hf : Gives (InDwell d) (f s)) :
      Gives (InDwell d) (comesIf p f s) := comesIf_gives h fun _ => hf
  cases c
  case putBinding | restart | putInput | putLadder | putStation | contactSample | changeAccepted | settlingComplete
      | ladderSample | ladderDecodeChange | ladderBaseline | stateReply | holdTimerExpiry | powerOn | resetLine
      | resetInputAsserted | lossOfSupply => exact Gives.next h
  case tick => exact event_gives serve h fun _ => h.levelTick
  case fadeEnd n => exact eventIf_gives serve h fun _ _ => h.levelTick
  case identReply r => unfold Machine.execBetween; exact given (h.execIdentReplyBy held r)
  case badReply r => unfold Machine.execBetween; exact given (h.execBadReplyBy held r)
  case replyWindowClose => unfold Machine.execBetween; exact given (h.execReplyWindowCloseBy held)
  case stationGoesMissing r => unfold Machine.execBetween; exact given (h.execStationGoesMissingBy held r)
  case ladderFaultEntry ch n => unfold Machine.execBetween; exact given (h.execLadderFaultEntryBy held ch n)
  case dwellEnd | zeroCrossing | mainsLock | mainsSilenceExpiry | releaseTimerExpiry | characterReceived | gapTimerExpiry
      | silenceTimerExpiry | transmitFrameEnd | saveEnd => exact free rfl
  case queryStation p => unfold Machine.execBetween; exact given (free rfl)
  all_goals exact given (free rfl)

/-- What comes between two bindings leaves the relay in its dwell, where each command of it spares it. -/
theorem InDwell.betweenBindings (h : InDwell d s) (src : Source)
    (spared : ∀ draw, ∀ e ∈ Config.comesBetween draw, d.Spares e) : InDwell d (betweenBindings src s) := by
  have hold (v : State) (h : InDwell d v) : InDwell d (holdReports v) := by
    unfold holdReports
    split
    · exact h.same (.of_parts rfl rfl)
    · exact h
  have free : InDwell d (freeReports { s with draws := s.draws + 1 }) := by
    unfold freeReports
    split
    · exact h.same (.of_parts rfl rfl)
    · exact h.same (.of_parts rfl rfl)
  have key (l : List Instr) (each : ∀ e ∈ l, d.Spares e) (v : State) (h : InDwell d v) :
      InDwell d (l.foldl (comes src) v) := by
    induction l generalizing v with
    | nil => exact h
    | cons c l ih =>
      refine ih (fun e mem => each e (List.mem_cons_of_mem _ mem)) _ ?_
      unfold comes
      split
      · next given => exact h.execBetween src (each c List.mem_cons_self) _ given
      all_goals exact h
  exact hold _ (key _ (spared s.draws) _ free)

end

end Sys2Proof.Machine

/-! PROOFS. While a circuit's dwell runs its relay stays as it is, whatever gestures, samples, key maps and writes reach (R45 to R50,
R63 to R68, R157). -/

namespace Sys2Proof.Machine

/-! ## Dispatches and gestures (R45 to R50, R63 to R68) -/

/-- No trigger has two bindings to reach, or whatever comes between two of them spares the dwell (R64). -/
def Dwell.Undisturbed (d : Dwell) : Prop :=
  (∀ src trg s, InDwell d s → AtMostOneMatches src trg s) ∨ ∀ draw, ∀ e ∈ Config.comesBetween draw, d.Spares e

section
variable {d : Dwell} {s : State}

theorem acted_sameRelay {n : CircuitId} (sup : List ZoneId) (s : State) (bx : SlotId × Binding) :
    SameRelay n s (acted sup s bx) := by
  unfold acted
  split
  · exact .refl
  · exact runAction_sameRelay _ _ _

/-- The bindings of a trigger leave the relay in its dwell, with what comes between two of them where there are two. -/
theorem InDwell.afterBindings (h : InDwell d s) (q : d.Undisturbed) (src : Source) (trg : Trigger) (sup : List ZoneId) :
    InDwell d (afterBindings (Machine.betweenBindings src) sup (matching src trg s) s) := by
  rcases q with lone | spared
  · rcases matching_lone (lone src trg s h) with none | ⟨bx, one⟩
    · rw [none]
      exact h
    · rw [one]
      exact h.same (acted_sameRelay _ _ _)
  · cases matching src trg s with
    | nil => exact h
    | cons bx rest =>
      exact foldl_kept (P := InDwell d) (fun v _ h => (h.betweenBindings src spared).same (acted_sameRelay _ _ _)) rest _
        (h.same (acted_sameRelay _ _ _))

theorem InDwell.dispatch (h : InDwell d s) (q : d.Undisturbed) (src : Source) (trg : Trigger) (sup : List ZoneId) :
    InDwell d (dispatch src trg sup s) := by
  have ramps : InDwell d (releaseRamps src trg s) := by
    rw [releaseRamps_frame]
    exact h.same (.of_parts rfl rfl)
  have reached := ramps.afterBindings q src trg sup
  rw [← reachBindings_state (Machine.betweenBindings src) sup _
    { state := releaseRamps src trg s, ran := false, held := false }] at reached
  unfold Machine.dispatch dispatchWith
  dsimp only
  generalize reachBindings (Machine.betweenBindings src) sup (matching src trg (releaseRamps src trg s))
    { state := releaseRamps src trg s, ran := false, held := false } = r at reached ⊢
  have told : InDwell d (if reportsEvents r.state src then raise (.event src trg (outcomeOf r.ran r.held)) r.state
      else r.state) := by
    split
    · exact reached.same (raise_sameRelay _ _)
    · exact reached
  unfold startOverride
  split
  · exact told.same (.of_parts rfl rfl)
  all_goals exact told

theorem InDwell.setTracker (h : InDwell d s) (src : Source) (v : Tracker) : InDwell d (s.setTracker src v) :=
  h.same (.of_parts (by simp) (by simp))

theorem InDwell.endGesture (h : InDwell d s) (q : d.Undisturbed) (src : Source) (l : List Trigger) :
    InDwell d (endGesture src l s) := by
  have dispatched := foldl_kept (P := InDwell d) (fun v trg h => h.dispatch q src trg (s.tracker src).suppression) l
  exact (dispatched _ (h.setTracker src _)).setTracker src _

theorem InDwell.press (h : InDwell d s) (q : d.Undisturbed) (src : Source) : InDwell d (press src s) := by
  have started : InDwell d (startGesture src s) := (h.setTracker src _).dispatch q src _ _
  unfold Machine.press
  split <;> assumption

theorem InDwell.release (h : InDwell d s) (q : d.Undisturbed) (src : Source) : InDwell d (release src s) := by
  have ended := h.endGesture q src (releaseTriggers (s.tracker src))
  unfold Machine.release
  split <;> assumption

theorem InDwell.synthesizedRelease (h : InDwell d s) (q : d.Undisturbed) (src : Source) :
    InDwell d (synthesizedRelease src s) := by
  have ended := h.endGesture q src (synthesizedTriggers (s.tracker src))
  unfold Machine.synthesizedRelease
  split <;> assumption

theorem InDwell.baseline (h : InDwell d s) (src : Source) : InDwell d (baseline src s) := by
  have latent := h.setTracker src Tracker.latent
  unfold Machine.baseline
  split <;> assumption

theorem Dwell.Undisturbed.released (q : d.Undisturbed) : KeptByRelease (InDwell d) Machine.synthesizedRelease where
  keeps src _ h := h.synthesizedRelease q src
  stations a b s := (synthesizedRelease_frame (.station a b) s).stationSettings
  ladders ch b s := (synthesizedRelease_frame (.ladder ch b) s).sampler (.inl rfl)

/-! ## Samples and key maps (R2, R6, R14, R18, R31, R32) -/

theorem InDwell.sampleContact (h : InDwell d s) (q : d.Undisturbed) (i : InputId) (raw : Contact) :
    InDwell d (sampleContact i raw s) := by
  have stored (v : InputState) : InDwell d (s.setInput i v) := h.same (.of_parts rfl rfl)
  unfold Machine.sampleContact
  dsimp only
  split
  · exact h
  · exact h
  · split
    · unfold settle handSettled
      dsimp only
      split
      · split
        · exact (stored _).press q _
        · exact (stored _).baseline _
      · exact stored _
    · exact stored _
  · split
    · exact stored _
    · split
      · unfold acceptChange
        dsimp only
        split
        · split
          · exact (stored _).press q _
          · exact (stored _).release q _
        · exact stored _
      · exact stored _

theorem InDwell.sampleLadder (h : InDwell d s) (q : d.Undisturbed) (ch : ChannelId) (reading : Nat) :
    InDwell d (sampleLadder ch reading s) := by
  have stored (v : LadderState) : InDwell d (s.setLadder ch v) := h.same (.of_parts rfl rfl)
  unfold Machine.sampleLadder
  split
  · exact h
  · split
    · unfold windowSample
      dsimp only
      split
      · split
        · exact forButton_kept (P := InDwell d) (fun _ _ h => h.baseline _) _ _ _ (stored _)
        · split
          · exact stored _
          · exact forButton_kept (P := InDwell d) (fun _ _ h => h.press q _) _ _ _
              (forButton_kept (P := InDwell d) (fun _ _ h => h.release q _) _ _ _ (stored _))
      · exact stored _
    · unfold indeterminateSample
      dsimp only
      split
      · exact h.enterFaultBy q.released ch
      · exact stored _
  · exact h.faultSample ch reading

theorem InDwell.stateTurn (h : InDwell d s) (q : d.Undisturbed) (t : Turn) (m : BitVec 8) : InDwell d (stateTurn t m s) := by
  have stored (u : State) (h : InDwell d u) (v : StationState) : InDwell d (u.setStation t.address v) :=
    h.same (.of_parts rfl rfl)
  unfold Machine.stateTurn
  dsimp only
  refine InDwell.same (s := ite _ _ _) ?_ (.of_parts rfl rfl)
  split
  · exact h.deferredTransitionBy q.released _
  · split
    · exact foldl_kept (P := InDwell d) (fun _ _ h => h.baseline _) _ _ (stored s h _)
    · refine stored _ (foldl_kept (P := InDwell d) (fun v b h => ?_) _ _ (stored s h _)) _
      unfold compareButton
      split
      · exact h
      · split
        · exact h.press q _
        · exact h.release q _

/-! ## The writes that end gestures (R1, R8, R17, R21, R23) -/

theorem InDwell.storeInput (h : InDwell d s) (i : InputId) (cs : InputSettings) : InDwell d (storeInput i cs s) :=
  h.same ⟨rfl, rfl, rfl⟩

theorem InDwell.stopLadder (h : InDwell d s) (q : d.Undisturbed) (ch : ChannelId) : InDwell d (stopLadder ch s) := by
  have released := forButton_kept q.released.keeps ch (s.ladders.get ch).decode s h
  have stopped : InDwell d ((forButton ch (s.ladders.get ch).decode Machine.synthesizedRelease s).setLadder ch LadderState.off) :=
    released.same (.of_parts rfl rfl)
  unfold Machine.stopLadder
  dsimp only
  split
  · exact stopped.same (ladderMadeKnown_frame _ _ _).sameRelay
  · exact stopped

theorem InDwell.retakeBaseline (h : InDwell d s) (i : InputId) (cs : InputSettings) : InDwell d (retakeBaseline i cs s) := by
  unfold Machine.retakeBaseline
  dsimp only
  split
  · exact h.baseline _
  · exact h

theorem InDwell.rewriteContact (h : InDwell d s) (q : d.Undisturbed) (i : InputId) (old cs : InputSettings) :
    InDwell d (rewriteContact i old cs s) := by
  have stored : InDwell d (Machine.storeInput i cs (if retakesGesture old cs then
      Machine.synthesizedRelease (.contact i) s else s)) := by
    split
    · exact (h.synthesizedRelease q _).storeInput i cs
    · exact h.storeInput i cs
  unfold Machine.rewriteContact
  dsimp only
  generalize Machine.storeInput i cs (if retakesGesture old cs then Machine.synthesizedRelease (.contact i) s else s) = u
    at stored ⊢
  have counted : InDwell d (if old.noise = cs.noise then u else u.setInput i (u.inputs.get i).recount) := by
    split
    · exact stored
    · exact stored.same (.of_parts rfl rfl)
  split
  · exact counted.retakeBaseline i cs
  · exact counted

theorem InDwell.writeInput (h : InDwell d s) (q : d.Undisturbed) (i : InputId) (cs : InputSettings) :
    InDwell d (writeInput i cs s) := by
  unfold Machine.writeInput
  dsimp only
  split
  · have released := h.synthesizedRelease q (.contact i)
    unfold inputToLadder
    dsimp only
    split
    · exact released.same ⟨rfl, rfl, rfl⟩
    · exact released.same ⟨rfl, rfl, rfl⟩
  · unfold inputToContact
    dsimp only
    split
    · exact (h.stopLadder q _).same ⟨rfl, rfl, rfl⟩
    · exact h.same ⟨rfl, rfl, rfl⟩
  · exact h.storeInput i cs
  · exact h.rewriteContact q i _ cs

theorem InDwell.writeLadder (h : InDwell d s) (q : d.Undisturbed) (ch : ChannelId) (cs : LadderSettings) :
    InDwell d (writeLadder ch cs s) := by
  by_cases inactive : (s.ladders.get ch).state = .inactive
  · rw [writeLadder_of_inactive inactive]
    exact h.same ⟨rfl, rfl, rfl⟩
  · rw [writeLadder_of_sampled inactive]
    have released := forButton_kept q.released.keeps ch (s.ladders.get ch).decode s h
    have started : InDwell d ((storeLadder ch cs
        (forButton ch (s.ladders.get ch).decode Machine.synthesizedRelease s)).setLadder ch LadderState.started) :=
      released.same ⟨rfl, rfl, rfl⟩
    unfold restartLadder
    dsimp only
    split
    · exact started.same ((raise_sameRelay _ _).trans (reevaluateWhere_frame _ _).sameRelay)
    · exact started

theorem InDwell.restartStation (h : InDwell d s) (q : d.Undisturbed) (a : StationId) (cs : StationSettings)
    (concerned : ZoneId → Bool) : InDwell d (restartStation a (storeStation a cs) concerned s) := by
  have released : InDwell d (if (s.stations.get a).state = .active then
      releaseStationBy Machine.synthesizedRelease a s else s) := by
    split
    · exact (releaseStationBy_kept q.released a s h).1
    · exact h
  have stored : InDwell d (storeStation a cs (if (s.stations.get a).state = .active then
      releaseStationBy Machine.synthesizedRelease a s else s)) := released.same ⟨rfl, rfl, rfl⟩
  exact stored.entered _ _ _

theorem InDwell.writeStation (h : InDwell d s) (q : d.Undisturbed) (a : StationId) (cs : StationSettings) :
    InDwell d (writeStation a cs s) := by
  unfold Machine.writeStation
  dsimp only
  split
  · next t _ =>
    split
    · have stored : InDwell d { (storeStation a cs s).setStation a
          (writtenInTurn (s.settings.stations.get a) cs (s.stations.get a)) with turn := some { t with deferred := true } } :=
        h.same ⟨rfl, rfl, rfl⟩
      exact stored.same (reevaluateWhere_frame _ _).sameRelay
    · exact h.restartStation q a cs _
  · split
    · exact (h.restartStation q a cs _).same (.of_parts rfl rfl)
    · exact h.restartStation q a cs _

end

end Sys2Proof.Machine

/-! PROOFS. While a circuit's dwell runs, only its end, a start, a loss of supply or a new minimum dwell moves its relay, and its end
applies what waited (R157 to R164). -/

namespace Sys2Proof.Machine

/-! ## Every command but the dwell's end, the starts and the loss of supply -/

section
variable {d : Dwell} {s : State}

/-- Every command that spares the dwell leaves it running with the bindings as they are, but a warm restart, which starts it afresh,
a write of a binding, a start and a loss of supply. -/
theorem InDwell.exec (h : InDwell d s) (q : d.Undisturbed) {c : Instr} (spared : d.Spares c)
    (kept : (∀ p, c ≠ .restart p) ∧ ∀ p, c ≠ .putBinding p)
    (powered : c ≠ .powerOn ∧ c ≠ .resetLine ∧ c ≠ .lossOfSupply) : Gives (InDwell d) (exec c s) := by
  obtain ⟨no_restart, no_putBinding⟩ := kept
  obtain ⟨no_powerOn, no_resetLine, no_lossOfSupply⟩ := powered
  have serve := (InDwell.link d).serve
  have free (itself : Machine.comesAsItself c = true) : Gives (InDwell d) (Machine.exec c s) := h.comesAsItself itself spared
  cases c with
  | contactSample i raw =>
    show Gives (InDwell d) (execContactSample i raw s)
    unfold execContactSample
    exact event_gives serve h fun _ => h.sampleContact q i raw
  | changeAccepted i raw =>
    show Gives (InDwell d) (execChangeAccepted i raw s)
    unfold execChangeAccepted
    exact eventIf_gives serve h fun _ _ => h.sampleContact q i raw
  | settlingComplete i raw =>
    show Gives (InDwell d) (execSettlingComplete i raw s)
    unfold execSettlingComplete
    exact eventIf_gives serve h fun _ _ => h.sampleContact q i raw
  | ladderSample ch r =>
    show Gives (InDwell d) (execLadderSample ch r s)
    unfold execLadderSample
    exact event_gives serve h fun _ => h.sampleLadder q ch r
  | ladderDecodeChange ch r =>
    show Gives (InDwell d) (execLadderDecodeChange ch r s)
    unfold execLadderDecodeChange
    exact eventIf_gives serve h fun _ _ => h.sampleLadder q ch r
  | ladderBaseline ch r =>
    show Gives (InDwell d) (execLadderBaseline ch r s)
    unfold execLadderBaseline
    exact eventIf_gives serve h fun _ _ => h.sampleLadder q ch r
  | stateReply r =>
    show Gives (InDwell d) (execStateReply r s)
    unfold execStateReply
    refine eventIf_gives serve h fun _ _ => ?_
    split
    · exact h.stateTurn q _ _
    · exact h
  | holdTimerExpiry src =>
    show Gives (InDwell d) (execHoldTimerExpiry src s)
    unfold execHoldTimerExpiry
    exact eventIf_gives serve h fun _ _ => (h.setTracker src _).dispatch q src _ _
  | tick => exact event_gives serve h fun _ => h.passTime.levelTick
  | fadeEnd c => exact eventIf_gives serve h fun _ _ => h.passTime.levelTick
  | identReply r => exact h.execIdentReplyBy q.released r
  | badReply r => exact h.execBadReplyBy q.released r
  | replyWindowClose => exact h.execReplyWindowCloseBy q.released
  | stationGoesMissing r => exact h.execStationGoesMissingBy q.released r
  | ladderFaultEntry ch n => exact h.execLadderFaultEntryBy q.released ch n
  | resetInputAsserted =>
    show Gives (InDwell d) (execResetInputAsserted s)
    unfold execResetInputAsserted
    exact whenRunning_gives h fun _ => h.same (.of_parts rfl rfl)
  | putInput p =>
    refine h.request fun v h => ?_
    unfold carryPutInput; split
    · exact h
    · split
      · exact h
      · split
        · exact h
        · split
          · exact h
          · exact h.writeInput q _ _
  | putLadder p =>
    refine h.request fun v h => ?_
    unfold carryPutLadder; split
    · exact h
    · split
      · exact h
      · split
        · exact h
        · exact h.writeLadder q _ _
  | putStation p =>
    refine h.request fun v h => ?_
    unfold carryPutStation; split
    · exact h
    · split
      · exact h
      · split
        · exact h
        · exact h.writeStation q _ _
  | restart p => exact absurd rfl (no_restart p)
  | putBinding p => exact absurd rfl (no_putBinding p)
  | powerOn => exact absurd rfl no_powerOn
  | resetLine => exact absurd rfl no_resetLine
  | lossOfSupply => exact absurd rfl no_lossOfSupply
  | _ => exact free rfl

/-- What the transmitter and the receipt of a frame keep of the circuits. -/
theorem keptByLink_of_circuits (Q : Table Circuit 128 → Prop) : KeptByLink fun t => Q t.circuits where
  serve v h := by rwa [serve_circuits]
  receive e v h := by rwa [(receiveEntry_sameParts e v).2]
  unqueue _ h := h
  reply _ _ h := h

theorem warmRestart_relay (s : State) (n : CircuitId) :
    ((warmRestart s).circuits.get n).relay.state = (s.circuits.get n).relay.state := by
  rw [(warmRestart_core s).circuits, show s.restarting.circuits.get n = _ from Table.get_zipWith _ _ _ _]
  rfl

/-- A warm restart keeps the state of every relay (R164). -/
theorem InDwell.execRestart (h : InDwell d s) (p : List Byte) :
    Gives (fun t => (t.circuits.get d.circuit).relay.state = d.closed) (Machine.exec (.restart p) s) := by
  refine request_gives (keptByLink_of_circuits fun l => (l.get d.circuit).relay.state = d.closed) h.relay.state fun v h => ?_
  unfold carryRestart
  split
  · exact h
  · split
    · exact h
    · dsimp only [done]
      rw [warmRestart_relay]
      exact h

/-- A write of a binding reaches no circuit (R61). -/
theorem InDwell.execPutBinding (h : InDwell d s) (p : List Byte) :
    Gives (fun t => (t.circuits.get d.circuit).relay.Dwells d.closed) (Machine.exec (.putBinding p) s) := by
  refine request_gives (keptByLink_of_circuits fun l => (l.get d.circuit).relay.Dwells d.closed) h.relay fun v h => ?_
  unfold carryPutBinding
  split
  · exact h
  · split
    · exact h
    · split
      · split
        · exact h
        · exact h
      · split
        · exact h
        · split
          · exact h
          · exact h

end

/-! ## The dwell as it runs, and its end -/

/-- The dwell of a circuit in a state. -/
def Dwell.of (n : CircuitId) (s : State) : Dwell where
  circuit := n
  minimum := (s.settings.circuits.get n).minimumDwell
  closed := (s.circuits.get n).relay.state
  bindings := s.settings.bindings

/-- Nothing waits for a crossing while the dwell runs, where the relay records are in order (O55). -/
theorem inDwell_of {n : CircuitId} {s : State} (order : RelaysInOrder s)
    (running : (s.circuits.get n).relay.dwellRunning = true) : InDwell (Dwell.of n s) s where
  relay := ⟨rfl, running, fun b waits => by
    have ended := ((order.relays n).atCrossing b waits).2.1
    rw [running] at ended
    cases ended⟩
  minimum := rfl
  bindings := rfl

theorem AtMostOneMatches.congr {src : Source} {trg : Trigger} {s t : State} (h : AtMostOneMatches src trg s)
    (same : t.settings.bindings = s.settings.bindings) : AtMostOneMatches src trg t := by
  unfold AtMostOneMatches at h ⊢
  rw [same]
  exact h

/-- The end of a circuit's dwell, as a command. -/
theorem exec_dwellEnd {n : CircuitId} {s : State} (power : s.power = .running)
    (running : (s.circuits.get n).relay.dwellRunning = true) : exec (.dwellEnd n) s = .next (serve (s.setCircuit n
      { s.circuits.get n with
        relay := (s.circuits.get n).relay.endDwell (s.settings.circuits.get n) (mainsLocked s) })) :=
  eventIf_of_possible (p := fun s => (s.circuits.get n).relay.dwellRunning) power running

/-- The end of a dwell by what waits (R160). -/
theorem Relay.endDwell_of_none {cs : CircuitSettings} {locked : Bool} {r : Relay} (waits : r.waiting = .none) :
    r.endDwell cs locked = { r with dwellRunning := false, elapsed := max r.elapsed (cs.minimumDwell * 100) } := by
  unfold Relay.endDwell
  dsimp only
  rw [waits]

theorem Relay.endDwell_of_afterDwell {cs : CircuitSettings} {locked b : Bool} {r : Relay} (waits : r.waiting = .afterDwell b) :
    r.endDwell cs locked = if (cs.align && locked) = true then
      { r with dwellRunning := false, elapsed := max r.elapsed (cs.minimumDwell * 100), waiting := .atCrossing b }
      else Relay.apply cs b := by
  unfold Relay.endDwell
  dsimp only
  rw [waits]
  rfl

/-- Settles O30: no block of a command hands a relay in its dwell anything but a request that waits, and the dwell's end is the
sequencer's own rule. -/
theorem dwellProtectsTheRelay : Obligations.DwellProtectsTheRelay := by
  intro n s order power running spares
  have h := inDwell_of order running
  refine ⟨fun c t spared undisturbed given => ?_, _, exec_dwellEnd power running, ?_, fun k other => ?_, fun waits => ?_,
    fun b waits now => ?_, fun b waits later => ?_⟩
  · have spares_of {e : Instr} (spared : spares e) : (Dwell.of n s).Spares e := ⟨spared.1, spared.2.2.2.2⟩
    have q : (Dwell.of n s).Undisturbed := undisturbed.imp
      (fun lone src trg v here => (lone src trg).congr here.bindings) fun quiet draw e mem => spares_of (quiet draw e mem)
    by_cases restarts : ∃ p, c = .restart p
    · obtain ⟨p, rfl⟩ := restarts
      exact ⟨h.execRestart p t given, fun never => absurd rfl (never p)⟩
    by_cases binds : ∃ p, c = .putBinding p
    · obtain ⟨p, rfl⟩ := binds
      have dwells := h.execPutBinding p t given
      exact ⟨dwells.state, fun _ => dwells.running⟩
    have spares_c := spares_of spared
    obtain ⟨-, powerOn, resetLine, lossOfSupply, -⟩ := spared
    have dwells := h.exec q spares_c ⟨fun p is => restarts ⟨p, is⟩, fun p is => binds ⟨p, is⟩⟩
      ⟨powerOn, resetLine, lossOfSupply⟩ t given
    exact ⟨dwells.relay.state, fun _ => dwells.relay.running⟩
  · rw [serve_circuits, State.setCircuit_circuits, Table.get_set_self]
  · rw [serve_circuits, State.setCircuit_circuits, Table.get_set_ne _ _ (Ne.symm other)]
  all_goals rw [serve_circuits, State.setCircuit_circuits, Table.get_set_self]
  · rw [Relay.endDwell_of_none waits]
    exact ⟨rfl, rfl, waits⟩
  · rw [Relay.endDwell_of_afterDwell waits, if_neg (by rw [now]; decide)]
    exact ⟨rfl, rfl, rfl, decide_eq_true_iff⟩
  · rw [Relay.endDwell_of_afterDwell waits, if_pos later]
    exact ⟨rfl, rfl, rfl⟩

end Sys2Proof.Machine
